-- ==== Sys2Proof/Word.lean ====
section
/-! DEFINITION. The carriers of the model: NUM, the command word, and one hexadecimal digit of it. -/

namespace Sys2Proof

/-- "the set of exact rationals" (00_scope.md R6, decision D1): samples, times, frequencies, amplitudes.
Every operation on it is exact; there is no infinity, no not-a-number and no negative zero (R13). -/
abbrev NUM := Rat

/-- A `bits16`: a command word (30_encoding.md R80, R81) or the noise register (10_state.md R41). -/
abbrev Word := BitVec 16

/-- One field of the command word: UNIT, OP, INST or FIELD, four bits each (30_encoding.md R81). -/
abbrev Nibble := BitVec 4

end Sys2Proof
end

