-- ==== Sys2Proof/Config.lean ====
section
/-! DEFINITION. The parameters of 00_scope.md R5: the decided ones as numbers, the OPEN ones as constants without a body.
BLOCK_SIZE, the remaining OPEN parameter, is an argument of RUNBLOCK (decision D25), so it stands in
`Sys2Proof.Item.runBlock` and not here. -/

namespace Sys2Proof

/-- N_EDGE, N_ENV, N_OSC, N_NOISE, N_MIX, N_SYS: the instance counts of 00_scope.md R5 and 30_encoding.md R82. -/
abbrev nEdge : Nat := 4
@[inherit_doc nEdge] abbrev nEnv : Nat := 3
@[inherit_doc nEdge] abbrev nOsc : Nat := 1
@[inherit_doc nEdge] abbrev nNoise : Nat := 1
@[inherit_doc nEdge] abbrev nMix : Nat := 1
@[inherit_doc nEdge] abbrev nSys : Nat := 1

/-- DEBOUNCE_WINDOW in seconds, OPEN (00_scope.md R5, 40_edge_detector.md R100, decision D7): any NUM.
No body: a proof cannot see its value. `State.reset` starts from it (log entry 2). -/
opaque Config.debounceWindow : NUM

/-- What SINE returns away from the four phases R152 pins, before the bound of R152 is applied. OPEN, no body
(42_oscillator.md R152, log entry 3). -/
opaque Config.sineFree : NUM → NUM

/-- The shape functions a model may take as WAVE in the place of the default (42_oscillator.md R150; 93_implementation_defined.md
U12, `parameter`): function number `k` of the waveform code, the phase and the phase increment, before the peak magnitude 1 of
R150 is applied. OPEN, no body (log entry 4). -/
opaque Config.waveFree : Nat → Nibble → NUM → NUM → NUM

/-- A phase at which shape `k` has the peak magnitude R150 asks for, before it is wrapped into `[0, 1)`, and whether the peak is
`-1` there. It depends on the waveform code and the phase increment. OPEN, no body (log entry 4). -/
opaque Config.wavePeakPhase : Nat → Nibble → NUM → NUM
@[inherit_doc Config.wavePeakPhase] opaque Config.wavePeakNegative : Nat → Nibble → NUM → Bool

/-- LFSR_SEED, LFSR_TAPS and LFSR_STEPS of 00_scope.md R5 (decision D16). -/
def Config.lfsrSeed : Word := 0xACE1
@[inherit_doc Config.lfsrSeed] def Config.lfsrTaps : List Nat := [0, 2, 3, 5]
@[inherit_doc Config.lfsrSeed] def Config.lfsrSteps : Nat := 16

end Sys2Proof
end

