-- ==== Sys2Proof/Syntax.lean ====
section
/-! DEFINITION. What is said to the block and what it answers: the operations (one constructor per row of
spec/opcode_table.json), the values on the operand bus and the response port, the raw command, and the issuer's
program lines of 30_encoding.md R91 and R92, RUNBLOCK among them. -/

namespace Sys2Proof

/-- The unit kinds of 30_encoding.md R82. -/
inductive UnitKind where
  | sys | edge | env | osc | noise | mix
deriving DecidableEq, Repr

/-- The waveform of 10_state.md R37; its codes are in `Decode.lean` (30_encoding.md R87). -/
inductive Waveform where
  | triangle | sine | saw | square
deriving DecidableEq, Repr

/-- The mixer mode of 10_state.md R42: 0 OBSERVED, 1 AVERAGE. -/
inductive MixMode where
  | observed | average
deriving DecidableEq, Repr

/-- One operation of the block: the nineteen rows of 30_encoding.md R83, each carrying the INST field and exactly the
immediate and the operand list of R85 and R86, "so a wrong list cannot be written down". -/
inductive Instr where
  | sysStatus (inst : Nibble)
  | sysSetfs (inst : Nibble) (v : NUM)
  | edgeInit (inst : Nibble) (rate : NUM)
  | edgeDebounce (inst : Nibble) (raw : Bool)
  | edgeRising (inst : Nibble)
  | envSetattack (inst : Nibble) (v : NUM)
  | envSetdecay (inst : Nibble) (v : NUM)
  | envSetmin (inst : Nibble) (v : NUM)
  | envSetmax (inst : Nibble) (v : NUM)
  | envTrigger (inst : Nibble)
  | envProcess (inst : Nibble)
  | oscSetwave (inst : Nibble) (w : Waveform)
  | oscSetfreq (inst : Nibble) (f : NUM)
  | oscSetamp (inst : Nibble) (a : NUM)
  | oscProcess (inst : Nibble)
  | noiseSeed (inst : Nibble) (seed : Word)
  | noiseProcess (inst : Nibble)
  | mixSetmode (inst : Nibble) (m : MixMode)
  | mixProcess (inst : Nibble) (click bass snare noise env : NUM)
deriving DecidableEq, Repr

/-- The unit an operation belongs to (30_encoding.md R83). -/
def Instr.unit : Instr → UnitKind
  | .sysStatus _ | .sysSetfs _ _ => .sys
  | .edgeInit _ _ | .edgeDebounce _ _ | .edgeRising _ => .edge
  | .envSetattack _ _ | .envSetdecay _ _ | .envSetmin _ _ | .envSetmax _ _ | .envTrigger _ | .envProcess _ => .env
  | .oscSetwave _ _ | .oscSetfreq _ _ | .oscSetamp _ _ | .oscProcess _ => .osc
  | .noiseSeed _ _ | .noiseProcess _ => .noise
  | .mixSetmode _ _ | .mixProcess _ _ _ _ _ _ => .mix

/-- The INST field of an operation, "an unsigned number 0 to 15" (30_encoding.md R84). -/
def Instr.inst : Instr → Nibble
  | .sysStatus i | .sysSetfs i _ | .edgeInit i _ | .edgeDebounce i _ | .edgeRising i
  | .envSetattack i _ | .envSetdecay i _ | .envSetmin i _ | .envSetmax i _ | .envTrigger i | .envProcess i
  | .oscSetwave i _ | .oscSetfreq i _ | .oscSetamp i _ | .oscProcess i
  | .noiseSeed i _ | .noiseProcess i | .mixSetmode i _ | .mixProcess i _ _ _ _ _ => i

/-- A typed value on the operand bus or among the components of a response: the types of 00_scope.md R6. -/
inductive Value where
  | num (q : NUM)
  | bits16 (w : Word)
  | bits4 (c : Nibble)
  | bit (b : Bool)
  | nat (k : Nat)
deriving DecidableEq, Repr

/-- A command as it stands on the command port: "a 16-bit command word `cw` together with the typed operands"
(30_encoding.md R80). It is raw: the word may be reserved, and the list may be the wrong one. -/
structure Command where
  cw : Word
  operands : List Value
deriving DecidableEq, Repr

/-- A response of the block, one constructor per shape of 30_encoding.md R86. `empty` is the answer of an operation whose
response is "none"; a faulting or ignored command gives no response at all (`none` in `State.resp`). -/
inductive Response where
  | empty
  | status (faulted : Bool) (cause : Nibble) (fcw : Word)
  | bit (b : Bool)
  | num (q : NUM)
  | frame (left right : NUM) (active : Nat)
deriving DecidableEq, Repr

/-- A name that `->` binds (30_encoding.md R91). RUNBLOCK's own names of 45_system_and_sequencer.md R193 are
constructors; `user k` is any other name of a program. -/
inductive Name where
  | user (k : Nat)
  | r (pin : Nat)
  | f | a | e | c | z | left | right | n
deriving DecidableEq, Repr

/-- An operand as a program line writes it: a value, or a name bound by an earlier line (30_encoding.md R91). -/
inductive Operand where
  | lit (v : Value)
  | name (name : Name)
deriving DecidableEq, Repr

/-- One program line of 30_encoding.md R91: the command word, the operands and the names its response is bound to.
`cond` is the name of an `IF name:` in front of it (R92). -/
structure Line where
  cw : Word
  operands : List Operand := []
  bind : List Name := []
  cond : Option Name := none
deriving DecidableEq, Repr

/-- What an issuer's program is made of: single lines, and RUNBLOCK with its inputs (45_system_and_sequencer.md R193):
the raw pin levels, and for each sample index the pair (bass, snare). BLOCK_SIZE is the length of `samples`.
ENV.INIT and OSC.INIT of 30_encoding.md R92 are lists of lines, in `Machine/Issuer.lean`. -/
inductive Item where
  | line (l : Line)
  | runBlock (pins : Vector Bool nEdge) (samples : List (NUM × NUM))
deriving DecidableEq, Repr

end Sys2Proof
end

