-- ==== Sys2Proof/WellFormed.lean ====
section
/-! DEFINITION. Well-formedness of what an issuer says. Three checks stand here and in `Decode.lean`:
the instance an operation names exists (`Instr.wellFormed`), a RUNBLOCK has a positive BLOCK_SIZE (`Item.wellFormed`), and a
raw command spells an operation and carries its exact operand list (`Command.wellFormed`, beside the decoder). -/

namespace Sys2Proof

/-- `N_U` of 30_encoding.md R82 and 60_exceptions.md R213. -/
def UnitKind.count : UnitKind → Nat
  | .sys => nSys
  | .edge => nEdge
  | .env => nEnv
  | .osc => nOsc
  | .noise => nNoise
  | .mix => nMix

/-- The operation names an existing instance: INST is below the unit's instance count (30_encoding.md R84). An operation
that fails this check can be encoded and issued; it faults as BadInstance (60_exceptions.md R213). -/
def Instr.wellFormed (i : Instr) : Bool :=
  decide (i.inst.toNat < i.unit.count)

/-- BLOCK_SIZE is "a positive natural" (00_scope.md R5). Every single line is accepted: its word is checked by the block. -/
def Item.wellFormed : Item → Bool
  | .line _ => true
  | .runBlock _ samples => decide (0 < samples.length)

end Sys2Proof
end

