-- ==== Sys2Proof/Decode.lean ====
section
/-! DEFINITION. The command encoding of 30_encoding.md: the fields of the word, the decoder of R90 (total, rejecting by
name), the opcode map of R83 as a table, and the encoder. -/

namespace Sys2Proof

/-- Why a raw command is not an operation. -/
inductive Reject where
  /-- The word matches no row of R83 (30_encoding.md R88); executing it faults as IllegalCommand. -/
  | reserved
  /-- The word spells an operation and the operand list is not that operation's (30_encoding.md R86, item V8). -/
  | wrongOperands
deriving DecidableEq, Repr

/-! ### The fields of the command word, bit 15 the most significant (R81) -/

/-- UNIT, OP, INST and FIELD: `cw[15:12]`, `cw[11:8]`, `cw[7:4]`, `cw[3:0]` (R81). -/
def fieldUnit (cw : Word) : Nibble := cw.extractLsb' 12 4
@[inherit_doc fieldUnit] def fieldOp (cw : Word) : Nibble := cw.extractLsb' 8 4
@[inherit_doc fieldUnit] def fieldInst (cw : Word) : Nibble := cw.extractLsb' 4 4
@[inherit_doc fieldUnit] def fieldImm (cw : Word) : Nibble := cw.extractLsb' 0 4

/-- The word with the given fields (R81). -/
def packWord (unit op inst fld : Nibble) : Word :=
  (unit.setWidth 16 <<< 12) ||| (op.setWidth 16 <<< 8) ||| (inst.setWidth 16 <<< 4) ||| fld.setWidth 16

/-! ### Codes of the immediates (R85, R87) -/

/-- The waveform codes 0 Triangle, 1 Sine, 2 Saw, 3 Square (30_encoding.md R87). -/
def Waveform.code : Waveform → Nibble
  | .triangle => 0
  | .sine => 1
  | .saw => 2
  | .square => 3

/-- The waveform of FIELD `00ww`; a non-zero bit in `cw[3:2]` is reserved (30_encoding.md R85). -/
def Waveform.ofCode (fld : Nibble) : Option Waveform :=
  match fld.toNat with
  | 0 => some .triangle
  | 1 => some .sine
  | 2 => some .saw
  | 3 => some .square
  | _ => none

/-- The mode codes 0 OBSERVED, 1 AVERAGE (30_encoding.md R87). -/
def MixMode.code : MixMode → Nibble
  | .observed => 0
  | .average => 1

/-- The mode of FIELD `000m`; a non-zero bit in `cw[3:1]` is reserved (30_encoding.md R85). -/
def MixMode.ofCode (fld : Nibble) : Option MixMode :=
  match fld.toNat with
  | 0 => some .observed
  | 1 => some .average
  | _ => none

/-- The raw pin level as FIELD `000r`, 1 for logic high (30_encoding.md R85, decision D9). -/
def rawCode (raw : Bool) : Nibble := if raw then 1 else 0

/-- The raw pin level of FIELD `000r`; a non-zero bit in `cw[3:1]` is reserved (30_encoding.md R85). -/
def rawOfCode (fld : Nibble) : Option Bool :=
  match fld.toNat with
  | 0 => some false
  | 1 => some true
  | _ => none

/-! ### Operand lists (R86) -/

/-- The operand list is empty. -/
def takeNone (i : Instr) : List Value → Except Reject Instr
  | [] => .ok i
  | _ => .error .wrongOperands

/-- The operand list is one NUM. -/
def takeNum (k : NUM → Instr) : List Value → Except Reject Instr
  | [.num v] => .ok (k v)
  | _ => .error .wrongOperands

/-- The operand list is one `bits16`. -/
def takeBits16 (k : Word → Instr) : List Value → Except Reject Instr
  | [.bits16 s] => .ok (k s)
  | _ => .error .wrongOperands

/-- The operand list is five NUM. -/
def takeFive (k : NUM → NUM → NUM → NUM → NUM → Instr) : List Value → Except Reject Instr
  | [.num p, .num q, .num r, .num s, .num t] => .ok (k p q r s t)
  | _ => .error .wrongOperands

/-- "if fld == 0 then … else Reserved" of R90. -/
def whenZero (fld : Nibble) (rest : Except Reject Instr) : Except Reject Instr :=
  if fld = 0 then rest else .error .reserved

/-- The decoder of 30_encoding.md R90 with the operand lists of R86: total on raw commands. The word is examined first, so a
reserved word is `reserved` whatever travels beside it. The instance check of R84 comes after decoding. -/
def decode (c : Command) : Except Reject Instr :=
  let inst := fieldInst c.cw
  let fld := fieldImm c.cw
  let ops := c.operands
  match (fieldUnit c.cw).toNat, (fieldOp c.cw).toNat with
  | 0, 0 => whenZero fld (takeNone (.sysStatus inst) ops)
  | 0, 1 => whenZero fld (takeNum (.sysSetfs inst) ops)
  | 1, 0 => whenZero fld (takeNum (.edgeInit inst) ops)
  | 1, 1 =>
    match rawOfCode fld with
    | some raw => takeNone (.edgeDebounce inst raw) ops
    | none => .error .reserved
  | 1, 2 => whenZero fld (takeNone (.edgeRising inst) ops)
  | 2, 0 =>
    match fld.toNat with
    | 0 => takeNum (.envSetattack inst) ops
    | 1 => takeNum (.envSetdecay inst) ops
    | 2 => takeNum (.envSetmin inst) ops
    | 3 => takeNum (.envSetmax inst) ops
    | _ => .error .reserved
  | 2, 1 => whenZero fld (takeNone (.envTrigger inst) ops)
  | 2, 2 => whenZero fld (takeNone (.envProcess inst) ops)
  | 3, 0 =>
    match Waveform.ofCode fld with
    | some w => takeNone (.oscSetwave inst w) ops
    | none => .error .reserved
  | 3, 1 => whenZero fld (takeNum (.oscSetfreq inst) ops)
  | 3, 2 => whenZero fld (takeNum (.oscSetamp inst) ops)
  | 3, 3 => whenZero fld (takeNone (.oscProcess inst) ops)
  | 4, 0 => whenZero fld (takeBits16 (.noiseSeed inst) ops)
  | 4, 1 => whenZero fld (takeNone (.noiseProcess inst) ops)
  | 5, 0 =>
    match MixMode.ofCode fld with
    | some m => takeNone (.mixSetmode inst m) ops
    | none => .error .reserved
  | 5, 1 => whenZero fld (takeFive (.mixProcess inst) ops)
  | _, _ => .error .reserved

/-- A raw command is well formed: its word spells an operation and its operand list is exactly that operation's
(30_encoding.md R86). -/
def Command.wellFormed (c : Command) : Bool :=
  match decode c with
  | .ok _ => true
  | .error _ => false

/-! ### The opcode map of R83, as a table -/

/-- The type of a value on the operand bus. -/
inductive Kind where
  | num | bits16 | bits4 | bit | nat
deriving DecidableEq, Repr

/-- The type of a value. -/
def Value.kind : Value → Kind
  | .num _ => .num
  | .bits16 _ => .bits16
  | .bits4 _ => .bits4
  | .bit _ => .bit
  | .nat _ => .nat

/-- One row of R83 with its operand list of R86: "a word `cw` spells the operation when `cw & mask == match`". -/
structure OpRow where
  mnemonic : String
  pattern : Word
  mask : Word
  operands : List Kind
deriving DecidableEq, Repr

/-- The rows of SYS, EDGE and ENV in the order of R83. -/
def opRowsSysEdgeEnv : List OpRow :=
  [⟨"SYS.STATUS", 0x0000, 0xFF0F, []⟩,
   ⟨"SYS.SETFS", 0x0100, 0xFF0F, [.num]⟩,
   ⟨"EDGE.INIT", 0x1000, 0xFF0F, [.num]⟩,
   ⟨"EDGE.DEBOUNCE", 0x1100, 0xFF0E, []⟩,
   ⟨"EDGE.RISING", 0x1200, 0xFF0F, []⟩,
   ⟨"ENV.SETATTACK", 0x2000, 0xFF0F, [.num]⟩,
   ⟨"ENV.SETDECAY", 0x2001, 0xFF0F, [.num]⟩,
   ⟨"ENV.SETMIN", 0x2002, 0xFF0F, [.num]⟩,
   ⟨"ENV.SETMAX", 0x2003, 0xFF0F, [.num]⟩,
   ⟨"ENV.TRIGGER", 0x2100, 0xFF0F, []⟩,
   ⟨"ENV.PROCESS", 0x2200, 0xFF0F, []⟩]

/-- The rows of OSC, NOISE and MIX in the order of R83. -/
def opRowsOscNoiseMix : List OpRow :=
  [⟨"OSC.SETWAVE", 0x3000, 0xFF0C, []⟩,
   ⟨"OSC.SETFREQ", 0x3100, 0xFF0F, [.num]⟩,
   ⟨"OSC.SETAMP", 0x3200, 0xFF0F, [.num]⟩,
   ⟨"OSC.PROCESS", 0x3300, 0xFF0F, []⟩,
   ⟨"NOISE.SEED", 0x4000, 0xFF0F, [.bits16]⟩,
   ⟨"NOISE.PROCESS", 0x4100, 0xFF0F, []⟩,
   ⟨"MIX.SETMODE", 0x5000, 0xFF0E, []⟩,
   ⟨"MIX.PROCESS", 0x5100, 0xFF0F, [.num, .num, .num, .num, .num]⟩]

/-- The opcode map of 30_encoding.md R83: nineteen operations. -/
def opcodeTable : List OpRow := opRowsSysEdgeEnv ++ opRowsOscNoiseMix

/-- `cw & mask == match` (R83). -/
def OpRow.spells (r : OpRow) (cw : Word) : Bool := (cw &&& r.mask) == r.pattern

/-- The row of R83 a word spells, if any. -/
def rowOf (cw : Word) : Option OpRow := opcodeTable.find? (fun r => r.spells cw)

/-! ### The encoder -/

/-- The command word of an operation, from the "Encoding" line of its own rule (R101 to R191) and the fields of R81. -/
def Instr.word : Instr → Word
  | .sysStatus i => packWord 0 0 i 0
  | .sysSetfs i _ => packWord 0 1 i 0
  | .edgeInit i _ => packWord 1 0 i 0
  | .edgeDebounce i raw => packWord 1 1 i (rawCode raw)
  | .edgeRising i => packWord 1 2 i 0
  | .envSetattack i _ => packWord 2 0 i 0
  | .envSetdecay i _ => packWord 2 0 i 1
  | .envSetmin i _ => packWord 2 0 i 2
  | .envSetmax i _ => packWord 2 0 i 3
  | .envTrigger i => packWord 2 1 i 0
  | .envProcess i => packWord 2 2 i 0
  | .oscSetwave i w => packWord 3 0 i w.code
  | .oscSetfreq i _ => packWord 3 1 i 0
  | .oscSetamp i _ => packWord 3 2 i 0
  | .oscProcess i => packWord 3 3 i 0
  | .noiseSeed i _ => packWord 4 0 i 0
  | .noiseProcess i => packWord 4 1 i 0
  | .mixSetmode i m => packWord 5 0 i m.code
  | .mixProcess i _ _ _ _ _ => packWord 5 1 i 0

/-- The operand list of an operation (30_encoding.md R86). -/
def Instr.operands : Instr → List Value
  | .sysSetfs _ v => [.num v]
  | .edgeInit _ rate => [.num rate]
  | .envSetattack _ v | .envSetdecay _ v | .envSetmin _ v | .envSetmax _ v => [.num v]
  | .oscSetfreq _ f => [.num f]
  | .oscSetamp _ a => [.num a]
  | .noiseSeed _ s => [.bits16 s]
  | .mixProcess _ click bass snare noise env => [.num click, .num bass, .num snare, .num noise, .num env]
  | .sysStatus _ | .edgeDebounce _ _ | .edgeRising _ | .envTrigger _ | .envProcess _ | .oscSetwave _ _
  | .oscProcess _ | .noiseProcess _ | .mixSetmode _ _ => []

/-- The command that spells an operation: its word and its operands (R80, R83, R86). -/
def encode (i : Instr) : Command := ⟨i.word, i.operands⟩

/-! ### The host's word -/

/-- The all-zero value of a type, for operands the opcode table gives no bits. -/
def Kind.zero : Kind → Value
  | .num => .num 0
  | .bits16 => .bits16 0
  | .bits4 => .bits4 0
  | .bit => .bit false
  | .nat => .nat 0

/-- The operand list of zeros for a word: the list of its row of R83, and none for a reserved word. -/
def zeroOperands (cw : Word) : List Value :=
  match rowOf cw with
  | some r => r.operands.map Kind.zero
  | none => []

/-- The command whose word is `w` and whose operands are zeros. A command has one 16-bit word (R80); `w` is taken
below `2 ^ nbits`, and a number above 16 bits is no command. -/
def tableCommand (nbits w : Nat) : Option Command :=
  let v := w % 2 ^ nbits
  if v < 2 ^ 16 then some ⟨BitVec.ofNat 16 v, zeroOperands (BitVec.ofNat 16 v)⟩ else none

/-- The operation the decoder reads from a word of the opcode table, its operands being zeros. -/
def decodeTableWord (nbits w : Nat) : Option Instr :=
  match tableCommand nbits w with
  | some c =>
    match decode c with
    | .ok i => some i
    | .error _ => none
  | none => none

end Sys2Proof
end

