-- ==== Sys2Proof/Machine/State.lean ====
section
/-! DEFINITION. The state: the registers of 10_state.md R20 (`Block`, "exactly the registers … and nothing else"), and around
them what the block meets: the response port, the output buffer OUT, the issuer and the reset line. Plain data. -/

namespace Sys2Proof.Machine

/-! ### The registers of the block -/

/-- The fault causes of 60_exceptions.md R211. -/
inductive FaultCause where
  | illegalCommand | badInstance | badConfig | unconfigured
deriving DecidableEq, Repr

/-- The record `{CAUSE, CW}` of 10_state.md R25. -/
structure FaultRecord where
  cause : FaultCause
  cw : Word
deriving DecidableEq, Repr

/-- SYS[0] (10_state.md R24, R25). `none` is the mark `unwritten` of R43 in `fs` and "none" of R25 in `fault`. -/
structure SysRegs where
  fs : Option NUM
  fault : Option FaultRecord
deriving DecidableEq, Repr

/-- EDGE[i] (10_state.md R26 to R29). -/
structure EdgeRegs where
  rate : Option NUM
  level : Bool
  cnt : Nat
  rise : Bool
deriving DecidableEq, Repr

/-- The stages of 10_state.md R34; the code 3 cannot occur. -/
inductive Stage where
  | idle | attack | decay
deriving DecidableEq, Repr

/-- ENV[j] (10_state.md R30 to R35). -/
structure EnvRegs where
  attack : Option NUM
  decay : Option NUM
  min : Option NUM
  max : Option NUM
  stage : Stage
  elapsed : Nat
deriving DecidableEq, Repr

/-- OSC[0] (10_state.md R37 to R40). -/
structure OscRegs where
  wave : Option Waveform
  freq : Option NUM
  amp : Option NUM
  phase : NUM
deriving DecidableEq, Repr

/-- NOISE[0] (10_state.md R41). -/
structure NoiseRegs where
  lfsr : Word
deriving DecidableEq, Repr

/-- MIX[0] (10_state.md R42). -/
structure MixRegs where
  mode : MixMode
deriving DecidableEq, Repr

/-- The registers of 10_state.md R20, per instance, and nothing else. The units with one instance are held once. -/
structure Block where
  sys : SysRegs
  edge : Vector EdgeRegs nEdge
  env : Vector EnvRegs nEnv
  osc : OscRegs
  noise : NoiseRegs
  mix : MixRegs
deriving DecidableEq, Repr

/-- The reset values of EDGE, ENV, OSC, collected in 10_state.md R45. -/
def EdgeRegs.reset : EdgeRegs := ⟨none, false, 0, false⟩
@[inherit_doc EdgeRegs.reset] def EnvRegs.reset : EnvRegs := ⟨none, none, none, none, .idle, 0⟩
@[inherit_doc EdgeRegs.reset] def OscRegs.reset : OscRegs := ⟨none, none, none, 0⟩

/-- The block after reset: the table of 10_state.md R45. -/
def Block.reset : Block where
  sys := ⟨none, none⟩
  edge := #v[.reset, .reset, .reset, .reset]
  env := #v[.reset, .reset, .reset]
  osc := .reset
  noise := ⟨Config.lfsrSeed⟩
  mix := ⟨.observed⟩

/-! ### The output buffer OUT -/

/-- The output buffer OUT (20_memory.md R60, R62): `size` slots numbered from 0, each one NUM, and the slots written since
the buffer was handed over, by slot. An unlisted slot reads as no value: it holds "whatever the host left"
(45_system_and_sequencer.md R193, item U15). -/
structure Memory where
  size : Nat
  cells : List (Nat × NUM)
deriving DecidableEq, Repr

/-- The canonical form: slots strictly rising, and every one a slot of the buffer. -/
abbrev Memory.wf (m : Memory) : Prop :=
  m.cells.Pairwise (fun p q => p.1 < q.1) ∧ ∀ p ∈ m.cells, p.1 < m.size

/-! ### The issuer -/

/-- The two voices outside the block whose strobes RUNBLOCK raises (45_system_and_sequencer.md R195). -/
inductive AnalogVoice where
  | bass | snare
deriving DecidableEq, Repr

/-- One action of the expansion of RUNBLOCK (45_system_and_sequencer.md R193). -/
inductive Action where
  | issue (l : Line)
  | strobe (v : AnalogVoice) (name : Name)
  | memWrite (slot : Nat) (name : Name)
deriving DecidableEq, Repr

/-- The issuer (00_scope.md R9, 10_state.md R22): the program it still has to issue, the rest of the RUNBLOCK in progress,
the names bound by `->` (30_encoding.md R91), and the two strobes RUNBLOCK returns. -/
structure Issuer where
  program : List Item
  block : List Action
  names : List (Name × Value)
  trigBass : Bool
  trigSnare : Bool
deriving DecidableEq, Repr

/-! ### The parameter WAVE -/

/-- The parameter WAVE of 00_scope.md R5 (42_oscillator.md R150): the default of R151, or the shape function number `k` among
those of which only R150 is known. Plain data: the functions are in `Machine/Osc.lean` (log entry 4). -/
inductive Shape where
  | default
  | other (k : Nat)
deriving DecidableEq, Repr

/-! ### The state of the model -/

/-- `block` is the hardware's state (10_state.md R20). The rest is what meets it: `resp` the response port after the last
command (30_encoding.md R80), `out` the buffer OUT (20_memory.md R60), `issuer` the one agent (00_scope.md R9), `resets` the reset
events still to come, each as the number of steps before it (70_reset_and_hazards.md R240). `window` and `shape` are the
parameters DEBOUNCE_WINDOW and WAVE (00_scope.md R5), which no step changes (log entries 2 and 4). -/
structure State where
  block : Block
  resp : Option Response
  out : Memory
  issuer : Issuer
  resets : List Nat
  window : NUM
  shape : Shape
deriving DecidableEq, Repr

/-- The machine right after reset: the block at the values of 10_state.md R45, and a command port with nothing on it:
"after reset the block waits for its first command" (20_memory.md R67). WAVE is its decided default (42_oscillator.md R151). -/
def State.reset : State where
  block := .reset
  resp := none
  out := ⟨0, []⟩
  issuer := ⟨[], [], [], false, false⟩
  resets := []
  window := Config.debounceWindow
  shape := .default

/-! ### The outcomes -/

/-- Why a step stops the machine. The faults of 60_exceptions.md are NOT here: they are recorded in SYS.FAULT and the
block goes on, halted (R217, R218), so they are next states. -/
inductive Fault where
  /-- Raised by a write to a slot of OUT at or above its size: the slot does not exist (20_memory.md R60). No RUNBLOCK
  raises it. Safe: the machine stops where the spec has no access. -/
  | noSuchSlot (slot : Nat)
deriving DecidableEq, Repr

/-- Why a step has no meaning. -/
inductive Refusal where
  /-- Raised by an arm of `exec` whose instruction has no meaning yet; none is left. Safe. -/
  | notModelled (mnemonic : String)
  /-- Raised when a command that is not ignored carries an operand list that is not its operation's: item V8 of
  93_implementation_defined.md, treatment `refuse`. Safe: the spec has no such command. -/
  | wrongOperands
  /-- Raised when a line issued to a block that is not halted has an operand no earlier line bound, or a strobe or a write of OUT a
  name not bound to a value of its type (30_encoding.md R91). Safe: the spec has no such line. -/
  | unboundName
  /-- Raised by a RUNBLOCK with BLOCK_SIZE 0, which 00_scope.md R5 excludes ("a positive natural"). Safe. -/
  | emptyBlock
deriving DecidableEq, Repr

/-- The outcome of one command or one step. -/
abbrev Result := Host.Outcome State Fault Refusal

end Sys2Proof.Machine
end

