-- ==== Sys2Proof/Machine/Flags.lean ====
section
/-! DEFINITION. The two one-bit flags of 10_state.md R23: RISE and the faulted bit. No operation has condition codes. -/

namespace Sys2Proof.Machine

/-- The faulted bit: the presence of a record in SYS[0].FAULT (10_state.md R23, R25). -/
def Block.faulted (b : Block) : Bool := b.sys.fault.isSome

/-- The code of a fault cause (30_encoding.md R87, 60_exceptions.md R211). -/
def FaultCause.code : FaultCause → Nibble
  | .illegalCommand => 1
  | .badInstance => 2
  | .badConfig => 3
  | .unconfigured => 4

/-- RISE after EDGE.DEBOUNCE (40_edge_detector.md R102): 1 exactly when this execution moved LEVEL, and moved it to 1.
`moved` says that LEVEL took the value `raw`. -/
def riseFlag (moved raw : Bool) : Bool := moved && raw

/-- The code of a stage, "for a model that wants one" (30_encoding.md R87). -/
def Stage.code : Stage → BitVec 2
  | .idle => 0
  | .attack => 1
  | .decay => 2

end Sys2Proof.Machine
end

