-- ==== Sys2Proof/Machine/Ops.lean ====
section
/-! DEFINITION. The named operations the meanings share: rounding, access to one instance's registers, the buffer OUT,
answering a command, raising a fault (the block's only exception entry), and the checks every command passes. -/

namespace Sys2Proof.Machine

/-! ### Rounding (00_scope.md R6, R13) -/

/-- `frac(q) = q - floor(q)`, in `[0, 1)` for every `q`, negative `q` included (00_scope.md R6). -/
def frac (q : NUM) : NUM := q - (⌊q⌋ : NUM)

/-! ### One instance's registers (00_scope.md R7) -/

/-- `EDGE[i] <- e`. -/
def Block.setEdge (b : Block) (i : Fin nEdge) (e : EdgeRegs) : Block := { b with edge := b.edge.set i e }

/-- `ENV[j] <- e`. -/
def Block.setEnv (b : Block) (j : Fin nEnv) (e : EnvRegs) : Block := { b with env := b.env.set j e }

/-! ### The output buffer OUT (20_memory.md R60) -/

/-- The cells with slot `k` holding `v`; strictly rising slots stay so. -/
def insertCell (k : Nat) (v : NUM) : List (Nat × NUM) → List (Nat × NUM)
  | [] => [(k, v)]
  | (j, w) :: rest =>
    if k < j then (k, v) :: (j, w) :: rest
    else if k = j then (k, v) :: rest
    else (j, w) :: insertCell k v rest

/-- The value in slot `k`, or none where RUNBLOCK has not written it (item U15: any value). -/
def Memory.read (m : Memory) (k : Nat) : Option NUM := m.cells.lookup k

/-- `MemWrite(k, 1, v)` of 00_scope.md R8, or none where the buffer has no slot `k` (20_memory.md R60). -/
def Memory.write (m : Memory) (k : Nat) (v : NUM) : Option Memory :=
  if k < m.size then some { m with cells := insertCell k v m.cells } else none

/-- The buffer of `2 * BLOCK_SIZE` slots the host hands over for one RUNBLOCK, nothing written in it yet
(20_memory.md R60, R62, R65). -/
def Memory.handedOver (blockSize : Nat) : Memory := ⟨2 * blockSize, []⟩

/-! ### The end of a command -/

/-- The command has ended and answers `r` (30_encoding.md R80, R86). -/
def State.answer (s : State) (r : Response) : State := { s with resp := some r }

/-- The command is ignored: "no state change and no response" (60_exceptions.md R218). -/
def State.ignored (s : State) : State := { s with resp := none }

/-- Fault entry, `raise X(cw)` of 60_exceptions.md R217: the record is written, no other register changes, and there is no
response. There is no handler, no vector, no saved state and no return (R217, R219). -/
def State.raise (s : State) (cause : FaultCause) (cw : Word) : State :=
  { s with block := { s.block with sys := { s.block.sys with fault := some ⟨cause, cw⟩ } }, resp := none }

/-- The reset event of 70_reset_and_hazards.md R240: every register takes its value of 10_state.md R45, and nothing of the
block survives (R241). It is the only way out of the halted state, the one "return" there is (60_exceptions.md R219). -/
def State.resetBlock (s : State) (later : List Nat) : State :=
  { s with block := .reset, resp := none, resets := later }

/-- The block is halted while SYS[0].FAULT is not none (60_exceptions.md R218). -/
def Block.halted (b : Block) : Bool := b.faulted

/-- The checks 1 and 3 of 60_exceptions.md R216, in that order, for an operation of a unit with `n` instances: a halted block
ignores the command; an instance that does not exist raises BadInstance (R213); otherwise the operation is performed on its
instance. Check 2 is the decoder's (`Machine/Port.lean`); checks 4 and 5 belong to the operations they name. -/
def check (cw : Word) (inst : Nibble) (n : Nat) (s : State) (perform : Fin n → Result) : Result :=
  if s.block.halted then .next s.ignored
  else if h : inst.toNat < n then perform ⟨inst.toNat, h⟩
  else .next (s.raise .badInstance cw)

end Sys2Proof.Machine
end

