-- ==== Sys2Proof/Machine/Edge.lean ====
section
/-! DEFINITION. EDGE: EDGE.INIT, EDGE.DEBOUNCE, EDGE.RISING (40_edge_detector.md). -/

namespace Sys2Proof.Machine

/-- `thr(i) = max(1, ceil(DEBOUNCE_WINDOW * EDGE[i].RATE))` (40_edge_detector.md R100). -/
def threshold (window rate : NUM) : Nat := (max 1 ⌈window * rate⌉).toNat

/-- The registers after one EDGE.DEBOUNCE with threshold `thr` (40_edge_detector.md R102). -/
def EdgeRegs.debounce (e : EdgeRegs) (raw : Bool) (thr : Nat) : EdgeRegs :=
  if raw = e.level then { e with cnt := 0, rise := riseFlag false raw }
  else if thr ≤ e.cnt + 1 then { e with level := raw, cnt := 0, rise := riseFlag true raw }
  else { e with cnt := e.cnt + 1, rise := riseFlag false raw }

/-- EDGE.INIT (R101): RATE takes the operand, LEVEL, CNT and RISE are cleared. -/
def execEdgeInit (inst : Nibble) (rate : NUM) (s : State) : Result :=
  check (Instr.edgeInit inst rate).word inst nEdge s fun i =>
    .next (State.answer { s with block := s.block.setEdge i ⟨some rate, false, 0, false⟩ } .empty)

/-- EDGE.DEBOUNCE (R102): Unconfigured while RATE is unwritten (60_exceptions.md R215). -/
def execEdgeDebounce (inst : Nibble) (raw : Bool) (s : State) : Result :=
  check (Instr.edgeDebounce inst raw).word inst nEdge s fun i =>
    match s.block.edge[i].rate with
    | none => .next (s.raise .unconfigured (Instr.edgeDebounce inst raw).word)
    | some rate =>
      .next (State.answer
        { s with block := s.block.setEdge i (s.block.edge[i].debounce raw (threshold s.window rate)) } .empty)

/-- EDGE.RISING (R103): answers RISE and clears it; it needs no configuration register. -/
def execEdgeRising (inst : Nibble) (s : State) : Result :=
  check (Instr.edgeRising inst).word inst nEdge s fun i =>
    .next (State.answer { s with block := s.block.setEdge i { s.block.edge[i] with rise := false } }
      (.bit s.block.edge[i].rise))

end Sys2Proof.Machine
end

