-- ==== Sys2Proof/Machine/Env.lean ====
section
/-! DEFINITION. ENV: the four configuration writes, ENV.TRIGGER and ENV.PROCESS (41_envelope_generator.md). -/

namespace Sys2Proof.Machine

/-- A segment's length in sample periods, `A(j)` or `D(j)`: the segment's time times FS (R121). -/
def segmentLength (time fs : NUM) : NUM := time * fs

/-- One ENV.PROCESS on configured registers: `a` and `d` are the segment lengths of R121, `lo` and `hi` MIN and MAX.
The registers after it and the value it answers (R127). Linear only (conflict C7). -/
def EnvRegs.process (e : EnvRegs) (a d lo hi : NUM) : EnvRegs × NUM :=
  match e.stage with
  | .idle => (e, lo)
  | .attack =>
    if a ≤ (e.elapsed + 1 : Nat) then ({ e with stage := .decay, elapsed := 0 }, hi)
    else ({ e with elapsed := e.elapsed + 1 }, lo + ((e.elapsed + 1 : Nat) / a) * (hi - lo))
  | .decay =>
    if d ≤ (e.elapsed + 1 : Nat) then ({ e with stage := .idle, elapsed := 0 }, lo)
    else ({ e with elapsed := e.elapsed + 1 }, hi - ((e.elapsed + 1 : Nat) / d) * (hi - lo))

/-- The shape of the four configuration writes: one register of ENV[j] takes the operand; no instruction flag, STAGE or
ELAPSED changes (R120). -/
def envConfigure (cw : Word) (inst : Nibble) (s : State) (write : EnvRegs → EnvRegs) : Result :=
  check cw inst nEnv s fun j =>
    .next (State.answer { s with block := s.block.setEnv j (write s.block.env[j]) } .empty)

/-- ENV.SETATTACK (R122): any NUM is accepted. -/
def execEnvSetattack (inst : Nibble) (v : NUM) (s : State) : Result :=
  envConfigure (Instr.envSetattack inst v).word inst s fun e => { e with attack := some v }

/-- ENV.SETDECAY (R123): any NUM is accepted. -/
def execEnvSetdecay (inst : Nibble) (v : NUM) (s : State) : Result :=
  envConfigure (Instr.envSetdecay inst v).word inst s fun e => { e with decay := some v }

/-- ENV.SETMIN (R124): any NUM is accepted, not compared with MAX. -/
def execEnvSetmin (inst : Nibble) (v : NUM) (s : State) : Result :=
  envConfigure (Instr.envSetmin inst v).word inst s fun e => { e with min := some v }

/-- ENV.SETMAX (R125): any NUM is accepted, not compared with MIN. -/
def execEnvSetmax (inst : Nibble) (v : NUM) (s : State) : Result :=
  envConfigure (Instr.envSetmax inst v).word inst s fun e => { e with max := some v }

/-- ENV.TRIGGER (R126): STAGE Attack and ELAPSED 0 from any stage; it reads no configuration register. -/
def execEnvTrigger (inst : Nibble) (s : State) : Result :=
  check (Instr.envTrigger inst).word inst nEnv s fun j =>
    .next (State.answer { s with block := s.block.setEnv j { s.block.env[j] with stage := .attack, elapsed := 0 } } .empty)

/-- ENV.PROCESS (R127): Unconfigured unless FS, ATTACK, DECAY, MIN and MAX are written, in every stage
(60_exceptions.md R215). -/
def execEnvProcess (inst : Nibble) (s : State) : Result :=
  check (Instr.envProcess inst).word inst nEnv s fun j =>
    let e := s.block.env[j]
    match s.block.sys.fs, e.attack, e.decay, e.min, e.max with
    | some fs, some attack, some decay, some lo, some hi =>
      let r := e.process (segmentLength attack fs) (segmentLength decay fs) lo hi
      .next (State.answer { s with block := s.block.setEnv j r.1 } (.num r.2))
    | _, _, _, _, _ => .next (s.raise .unconfigured (Instr.envProcess inst).word)

end Sys2Proof.Machine
end

