-- ==== Sys2Proof/Machine/Mix.lean ====
section
/-! DEFINITION. MIX: MIX.SETMODE, MIX.PROCESS (44_voice_mixer.md). -/

namespace Sys2Proof.Machine

/-- `[q != 0]` of 44_voice_mixer.md R182, exact inequality (00_scope.md R13). -/
def nonZero (q : NUM) : Nat := if q ≠ 0 then 1 else 0

/-- The count of non-zero oscillator-class voices, 0 to 3 (R182, R186). -/
def activeCount (click bass snare : NUM) : Nat := nonZero click + nonZero bass + nonZero snare

/-- `oscMix` of R182: the click alone in OBSERVED mode, the mean of the non-zero voices in AVERAGE mode. -/
def oscMix (mode : MixMode) (click bass snare : NUM) : NUM :=
  match mode with
  | .observed => click
  | .average =>
    if activeCount click bass snare = 0 then 0 else (click + bass + snare) / (activeCount click bass snare : Nat)

/-- `out` of R182; nothing is clipped (R184). -/
def mixOut (mode : MixMode) (click bass snare noise env : NUM) : NUM :=
  1 / 2 * (noise * env) + 1 / 2 * oscMix mode click bass snare

/-- MIX.SETMODE (R181). -/
def execMixSetmode (inst : Nibble) (m : MixMode) (s : State) : Result :=
  check (Instr.mixSetmode inst m).word inst nMix s fun _ =>
    .next (State.answer { s with block := { s.block with mix := ⟨m⟩ } } .empty)

/-- MIX.PROCESS (R182): the frame, the same value left and right, and the count; no register changes. -/
def execMixProcess (inst : Nibble) (click bass snare noise env : NUM) (s : State) : Result :=
  check (Instr.mixProcess inst click bass snare noise env).word inst nMix s fun _ =>
    let out := mixOut s.block.mix.mode click bass snare noise env
    .next (s.answer (.frame out out (activeCount click bass snare)))

end Sys2Proof.Machine
end

