-- ==== Sys2Proof/Machine/Noise.lean ====
section
/-! DEFINITION. NOISE: the shift register, NOISE.SEED, NOISE.PROCESS (43_noise_generator.md). -/

namespace Sys2Proof.Machine

/-- The feedback bit: the exclusive or of the taps, `l[0] ^ l[2] ^ l[3] ^ l[5]` (R170). -/
def lfsrFeedback (l : Word) : Bool := Config.lfsrTaps.foldl (fun b k => b ^^ l.getLsbD k) false

/-- One shift: bit 0 is dropped and the feedback bit enters at bit 15 (R170). -/
def lfsrStep (l : Word) : Word := (l >>> 1) ||| ((BitVec.ofBool (lfsrFeedback l)).zeroExtend 16 <<< 15)

/-- `n` shifts. -/
def lfsrShift : Nat → Word → Word
  | 0, l => l
  | n + 1, l => lfsrShift n (lfsrStep l)

/-- `sample(l) = signed16(l) / 32768` (R171). -/
def noiseSample (l : Word) : NUM := (l.toInt : NUM) / 32768

/-- NOISE.SEED (R172): a zero seed is replaced by the reset seed and raises no fault. -/
def execNoiseSeed (inst : Nibble) (seed : Word) (s : State) : Result :=
  check (Instr.noiseSeed inst seed).word inst nNoise s fun _ =>
    .next (State.answer
      { s with block := { s.block with noise := ⟨if seed = 0 then Config.lfsrSeed else seed⟩ } } .empty)

/-- NOISE.PROCESS (R173): sixteen shifts, then the sample of the new state; it needs no configuration register. -/
def execNoiseProcess (inst : Nibble) (s : State) : Result :=
  check (Instr.noiseProcess inst).word inst nNoise s fun _ =>
    let l := lfsrShift Config.lfsrSteps s.block.noise.lfsr
    .next (State.answer { s with block := { s.block with noise := ⟨l⟩ } } (.num (noiseSample l)))

end Sys2Proof.Machine
end

