-- ==== Sys2Proof/Machine/Osc.lean ====
section
/-! DEFINITION. OSC: the waveform shapes, OSC.SETWAVE, OSC.SETFREQ, OSC.SETAMP, OSC.PROCESS (42_oscillator.md). -/

namespace Sys2Proof.Machine

/-- `v`, cut to the interval `[-1, 1]`. -/
def cutToOne (v : NUM) : NUM := if v < -1 then -1 else if 1 < v then 1 else v

/-- SINE (42_oscillator.md R152): the four pinned phases, and elsewhere an open value kept in `[-1, 1]` (log entry 3). -/
def sine (p : NUM) : NUM :=
  if p = 0 then 0
  else if p = 1 / 4 then 1
  else if p = 1 / 2 then 0
  else if p = 3 / 4 then -1
  else cutToOne (Config.sineFree p)

/-- The default WAVE (42_oscillator.md R151). It ignores the phase increment `_inc` and corrects nothing (R159). -/
def wave (w : Waveform) (p _inc : NUM) : NUM :=
  match w with
  | .triangle => |4 * p - 2| - 1
  | .sine => sine p
  | .saw => 1 - 2 * p
  | .square => if p < 1 / 2 then 1 else -1

/-- Shape function number `k` in the place of the default: a function of the three arguments of R150 alone, with peak magnitude 1
at some phase of the cycle, and otherwise open (42_oscillator.md R150, log entry 4). It may use `inc` (R159). -/
def otherWave (k : Nat) (w : Waveform) (p inc : NUM) : NUM :=
  if p = frac (Config.wavePeakPhase k w.code inc) then (if Config.wavePeakNegative k w.code inc then -1 else 1)
  else cutToOne (Config.waveFree k w.code p inc)

/-- WAVE (42_oscillator.md R150): the shape function the parameter `shape` selects. -/
def waveOf : Shape → Waveform → NUM → NUM → NUM
  | .default => wave
  | .other k => otherWave k

/-- OSC.SETWAVE (R153): WAVE takes the code of the word; PHASE is not touched. -/
def execOscSetwave (inst : Nibble) (w : Waveform) (s : State) : Result :=
  check (Instr.oscSetwave inst w).word inst nOsc s fun _ =>
    .next (State.answer { s with block := { s.block with osc := { s.block.osc with wave := some w } } } .empty)

/-- OSC.SETFREQ (R154): FREQ takes the operand, any NUM. -/
def execOscSetfreq (inst : Nibble) (f : NUM) (s : State) : Result :=
  check (Instr.oscSetfreq inst f).word inst nOsc s fun _ =>
    .next (State.answer { s with block := { s.block with osc := { s.block.osc with freq := some f } } } .empty)

/-- OSC.SETAMP (R155): AMP takes the operand, any NUM. -/
def execOscSetamp (inst : Nibble) (a : NUM) (s : State) : Result :=
  check (Instr.oscSetamp inst a).word inst nOsc s fun _ =>
    .next (State.answer { s with block := { s.block with osc := { s.block.osc with amp := some a } } } .empty)

/-- OSC.PROCESS (R156) with the shape function `shape` in the place of WAVE (R150): advance the phase by `FREQ / FS`, wrap it
with `frac`, evaluate the shape at the new phase, scale by AMP. -/
def oscProcessWith (shape : Waveform → NUM → NUM → NUM) (inst : Nibble) (s : State) : Result :=
  check (Instr.oscProcess inst).word inst nOsc s fun _ =>
    match s.block.sys.fs, s.block.osc.wave, s.block.osc.freq, s.block.osc.amp with
    | some fs, some w, some freq, some amp =>
      let inc := freq / fs
      let phase := frac (s.block.osc.phase + inc)
      .next (State.answer { s with block := { s.block with osc := { s.block.osc with phase := phase } } }
        (.num (amp * shape w phase inc)))
    | _, _, _, _ => .next (s.raise .unconfigured (Instr.oscProcess inst).word)

/-- OSC.PROCESS (R156) with the machine's parameter WAVE (R150). -/
def execOscProcess (inst : Nibble) (s : State) : Result := oscProcessWith (waveOf s.shape) inst s

end Sys2Proof.Machine
end

