-- ==== Sys2Proof/Machine/Sys.lean ====
section
/-! DEFINITION. SYS: SYS.STATUS and SYS.SETFS (45_system_and_sequencer.md R190, R191). -/

namespace Sys2Proof.Machine

/-- The answer of SYS.STATUS: the faulted bit, the cause and the word of the record, all zero without one (R190). -/
def Block.statusResponse (b : Block) : Response :=
  match b.sys.fault with
  | none => .status b.faulted 0 0x0000
  | some r => .status b.faulted r.cause.code r.cw

/-- SYS.STATUS (R190). With INST 0 it is "the only command a halted block executes" (60_exceptions.md R218); it changes
nothing. -/
def execSysStatus (inst : Nibble) (s : State) : Result :=
  if s.block.halted ∧ inst = 0 then .next (s.answer s.block.statusResponse)
  else check (Instr.sysStatus inst).word inst nSys s fun _ => .next (s.answer s.block.statusResponse)

/-- SYS.SETFS (R191): BadConfig when `v` is not above 0 (60_exceptions.md R214), else FS takes `v`. -/
def execSysSetfs (inst : Nibble) (v : NUM) (s : State) : Result :=
  check (Instr.sysSetfs inst v).word inst nSys s fun _ =>
    if v ≤ 0 then .next (s.raise .badConfig (Instr.sysSetfs inst v).word)
    else .next (State.answer { s with block := { s.block with sys := { s.block.sys with fs := some v } } } .empty)

end Sys2Proof.Machine
end

