-- ==== Sys2Proof/Machine/Dispatch.lean ====
section
/-! DEFINITION. One arm per operation: the meaning of each row of spec/opcode_table.json. -/

namespace Sys2Proof.Machine

/-- The meaning of one operation on the port: the checks 1, 3, 4, 5 of 60_exceptions.md R216 and its pseudocode. -/
def exec (i : Instr) (s : State) : Host.Outcome State Fault Refusal :=
  match i with
  | .sysStatus inst => Sys2Proof.Machine.execSysStatus inst s
  | .sysSetfs inst v => Sys2Proof.Machine.execSysSetfs inst v s
  | .edgeInit inst rate => Sys2Proof.Machine.execEdgeInit inst rate s
  | .edgeDebounce inst raw => Sys2Proof.Machine.execEdgeDebounce inst raw s
  | .edgeRising inst => Sys2Proof.Machine.execEdgeRising inst s
  | .envSetattack inst v => Sys2Proof.Machine.execEnvSetattack inst v s
  | .envSetdecay inst v => Sys2Proof.Machine.execEnvSetdecay inst v s
  | .envSetmin inst v => Sys2Proof.Machine.execEnvSetmin inst v s
  | .envSetmax inst v => Sys2Proof.Machine.execEnvSetmax inst v s
  | .envTrigger inst => Sys2Proof.Machine.execEnvTrigger inst s
  | .envProcess inst => Sys2Proof.Machine.execEnvProcess inst s
  | .oscSetwave inst w => Sys2Proof.Machine.execOscSetwave inst w s
  | .oscSetfreq inst f => Sys2Proof.Machine.execOscSetfreq inst f s
  | .oscSetamp inst a => Sys2Proof.Machine.execOscSetamp inst a s
  | .oscProcess inst => Sys2Proof.Machine.execOscProcess inst s
  | .noiseSeed inst seed => Sys2Proof.Machine.execNoiseSeed inst seed s
  | .noiseProcess inst => Sys2Proof.Machine.execNoiseProcess inst s
  | .mixSetmode inst m => Sys2Proof.Machine.execMixSetmode inst m s
  | .mixProcess inst click bass snare noise env => Sys2Proof.Machine.execMixProcess inst click bass snare noise env s

end Sys2Proof.Machine
end

