-- ==== Sys2Proof/Machine/Operands.lean ====
section
/-! DEFINITION. How operands and responses travel: the components of a response, names bound by `->`, and the values a
program line puts on the operand bus (10_state.md R21, 30_encoding.md R86, R91). -/

namespace Sys2Proof.Machine

/-- The components of a response, in the order of 30_encoding.md R86. -/
def responseComponents : Response → List Value
  | .empty => []
  | .status faulted cause fcw => [.bit faulted, .bits4 cause, .bits16 fcw]
  | .bit b => [.bit b]
  | .num q => [.num q]
  | .frame left right active => [.num left, .num right, .nat active]

/-- The names bound so far: one entry a name. -/
abbrev Names := List (Name × Value)

/-- Bind `name` to `v`, in place of what it was bound to. -/
def bindName (name : Name) (v : Value) : Names → Names
  | [] => [(name, v)]
  | (m, w) :: rest => if m = name then (name, v) :: rest else (m, w) :: bindName name v rest

/-- `name` is bound to nothing. -/
def unbindName (name : Name) (ns : Names) : Names := ns.filter (fun p => p.1 ≠ name)

/-- `-> names`: each name takes its component of the response; a name for which there is no component, as when the command
faulted or was ignored, is bound to nothing; a component for which there is no name, as under one name after a response of
several components (SYS.STATUS, MIX.PROCESS), is bound to none (30_encoding.md R86, R91; DESIGN CHOICE, log entry 9). -/
def bindAll : List Name → List Value → Names → Names
  | [], _, ns => ns
  | name :: more, v :: vs, ns => bindAll more vs (bindName name v ns)
  | name :: more, [], ns => bindAll more [] (unbindName name ns)

/-- The value of one written operand: itself, or what its name is bound to. -/
def resolveOne (ns : Names) : Operand → Option Value
  | .lit v => some v
  | .name name => ns.lookup name

/-- The operand list a line puts on the bus: none where a name is not bound. -/
def resolve (ns : Names) : List Operand → Option (List Value)
  | [] => some []
  | o :: more =>
    match resolveOne ns o, resolve ns more with
    | some v, some vs => some (v :: vs)
    | _, _ => none

/-- Whether a line with this `IF` is executed: "when the bit bound to `name` is 1", and it is skipped otherwise; a line without an
`IF` is always executed (30_encoding.md R92, log entry 9). -/
def condition (ns : Names) : Option Name → Bool
  | none => true
  | some name => ns.lookup name == some (.bit true)

end Sys2Proof.Machine
end

