-- ==== Sys2Proof/Machine/Issuer.lean ====
section
/-! DEFINITION. The issuer's side: the pseudo-instructions of 30_encoding.md R92 as the lines they expand to, the expansion of
RUNBLOCK (45_system_and_sequencer.md R193) with the wiring of R192, and the list of writes that must come before the first
RUNBLOCK (70_reset_and_hazards.md R242). -/

namespace Sys2Proof.Machine

/-- The line that issues an operation with its operands written out (30_encoding.md R91). -/
def instrLine (i : Instr) : Line := { cw := i.word, operands := i.operands.map .lit }

/-- `ENV.INIT j, a, d, lo, hi` (30_encoding.md R92). -/
def envInit (j : Nibble) (a d lo hi : NUM) : List Instr :=
  [.envSetattack j a, .envSetdecay j d, .envSetmin j lo, .envSetmax j hi]

/-- `OSC.INIT o, w, f, a` (30_encoding.md R92). -/
def oscInit (o : Nibble) (w : Waveform) (f a : NUM) : List Instr :=
  [.oscSetwave o w, .oscSetfreq o f, .oscSetamp o a]

/-- The parameters of one ENV.INIT. -/
structure EnvParams where
  attack : NUM
  decay : NUM
  min : NUM
  max : NUM
deriving DecidableEq, Repr

/-- What must be issued after reset and before the first RUNBLOCK (70_reset_and_hazards.md R242), in the order written there. -/
def initialisation (fs : NUM) (blockSize : Nat) (env0 env1 env2 : EnvParams) (w : Waveform) : List Instr :=
  [.sysSetfs 0 fs,
   .edgeInit 0 (fs / blockSize), .edgeInit 1 (fs / blockSize),
   .edgeInit 2 (fs / blockSize), .edgeInit 3 (fs / blockSize)] ++
  (envInit 0 env0.attack env0.decay env0.min env0.max ++
   envInit 1 env1.attack env1.decay env1.min env1.max ++
   envInit 2 env2.attack env2.decay env2.min env2.max ++
   [.oscSetwave 0 w])

/-! ### RUNBLOCK (45_system_and_sequencer.md R193) -/

/-- A line of the expansion: the word of `i`, the operands as written, the names bound. -/
def lineOf (i : Instr) (operands : List Operand := []) (bind : List Name := []) (cond : Option Name := none) : Action :=
  .issue { cw := i.word, operands := operands, bind := bind, cond := cond }

/-- The debounces, the queries, the triggers and the strobes, "triggers before the sample loop" (R193, R247); pins and voices
are wired as R192 says. -/
def runBlockHead (pins : Vector Bool nEdge) : List Action :=
  [lineOf (.edgeDebounce 0 pins[0]), lineOf (.edgeDebounce 1 pins[1]),
   lineOf (.edgeDebounce 2 pins[2]), lineOf (.edgeDebounce 3 pins[3]),
   lineOf (.edgeRising 0) [] [.r 0], lineOf (.edgeRising 1) [] [.r 1],
   lineOf (.edgeRising 2) [] [.r 2], lineOf (.edgeRising 3) [] [.r 3],
   lineOf (.envTrigger 0) [] [] (some (.r 0)), lineOf (.envTrigger 1) [] [] (some (.r 0)),
   .strobe .bass (.r 1), .strobe .snare (.r 2),
   lineOf (.envTrigger 2) [] [] (some (.r 3))]

/-- One sample iteration: envelopes, setters, oscillator, noise, mixer, frame (R193); slot `2k` left, `2k + 1` right
(20_memory.md R62). -/
def sampleLoop (k : Nat) (bass snare : NUM) : List Action :=
  [lineOf (.envProcess 0) [] [.f], lineOf (.envProcess 1) [] [.a], lineOf (.envProcess 2) [] [.e],
   lineOf (.oscSetfreq 0 0) [.name .f], lineOf (.oscSetamp 0 0) [.name .a],
   lineOf (.oscProcess 0) [] [.c], lineOf (.noiseProcess 0) [] [.z],
   lineOf (.mixProcess 0 0 0 0 0 0) [.name .c, .lit (.num bass), .lit (.num snare), .name .z, .name .e]
     [.left, .right, .n],
   .memWrite (2 * k) .left, .memWrite (2 * k + 1) .right]

/-- The sample loop from sample index `k` on. -/
def sampleLoops : Nat → List (NUM × NUM) → List Action
  | _, [] => []
  | k, (bass, snare) :: rest => sampleLoop k bass snare ++ sampleLoops (k + 1) rest

/-- The expansion of RUNBLOCK (R193). -/
def runBlockActions (pins : Vector Bool nEdge) (samples : List (NUM × NUM)) : List Action :=
  runBlockHead pins ++ sampleLoops 0 samples

/-! ### The issuer after a command -/

/-- The issuer after a command of line `l`: the response is bound to the names of `l`, and a RUNBLOCK in progress "stops there"
once the block is halted (R193, log entry 8). -/
def State.endLine (s : State) (l : Line) : State :=
  { s with issuer := { s.issuer with
      names := bindAll l.bind (match s.resp with | some r => responseComponents r | none => []) s.issuer.names
      block := if s.block.halted then [] else s.issuer.block } }

/-- `trig_bass <- b` or `trig_snare <- b` (R193, R195). -/
def State.setStrobe (s : State) (v : AnalogVoice) (b : Bool) : State :=
  match v with
  | .bass => { s with issuer := { s.issuer with trigBass := b } }
  | .snare => { s with issuer := { s.issuer with trigSnare := b } }

/-- The issuer begins a RUNBLOCK: the host's buffer of this block is handed over and the expansion is next. -/
def State.beginBlock (s : State) (pins : Vector Bool nEdge) (samples : List (NUM × NUM)) (rest : List Item) : State :=
  { s with
    out := .handedOver samples.length
    issuer := { s.issuer with program := rest, block := runBlockActions pins samples } }

end Sys2Proof.Machine
end

