-- ==== Sys2Proof/Machine/Port.lean ====
section
/-! DEFINITION. The command port and what drives it: one raw command executed (60_exceptions.md R216), one action of the
issuer performed, the next action found. -/

namespace Sys2Proof.Machine

/-- A further operation on the next state, where there is one. -/
def andThen (r : Result) (f : State → Result) : Result :=
  match r with
  | .next s => f s
  | .fault e => .fault e
  | .refused e => .refused e

/-- One raw command on the port, `execute(cw, operands)` of 60_exceptions.md R216. Check 1 stands first for words that spell no
operation too: a halted block examines nothing (R218). Check 2 is the decoder's verdict: a reserved word raises IllegalCommand
(R212). A wrong operand list is refused (item V8). The rest is the operation's own. -/
def execute (c : Command) (s : State) : Result :=
  match decode c with
  | .ok i => exec i s
  | .error .reserved =>
    if s.block.halted then .next s.ignored else .next (s.raise .illegalCommand c.cw)
  | .error .wrongOperands =>
    if s.block.halted then .next s.ignored else .refused .wrongOperands

/-- The issuer issues a line: the `IF` bit decides whether at all (30_encoding.md R92), the operands are put on the bus, the
block executes the command, and the response is bound. A halted block ignores the command whatever the bus carries. -/
def issueLine (l : Line) (s : State) : Result :=
  if condition s.issuer.names l.cond then
    match resolve s.issuer.names l.operands with
    | some ops => andThen (execute ⟨l.cw, ops⟩ s) fun t => .next (t.endLine l)
    | none => if s.block.halted then .next (s.ignored.endLine l) else .refused .unboundName
  else .next s

/-- One action of the issuer (45_system_and_sequencer.md R193). -/
def perform (a : Action) (s : State) : Result :=
  match a with
  | .issue l => issueLine l s
  | .strobe v name =>
    match s.issuer.names.lookup name with
    | some (.bit b) => .next (s.setStrobe v b)
    | _ => .refused .unboundName
  | .memWrite slot name =>
    match s.issuer.names.lookup name with
    | some (.num q) =>
      match s.out.write slot q with
      | some m => .next { s with out := m }
      | none => .fault (.noSuchSlot slot)
    | _ => .refused .unboundName

/-- What the issuer does next: the next action of the RUNBLOCK in progress; else the next item of its program; else nothing,
and the block waits for a command (20_memory.md R67, 60_exceptions.md R228). -/
def issuerStep (s : State) : Result :=
  match s.issuer.block with
  | a :: rest => perform a { s with issuer := { s.issuer with block := rest } }
  | [] =>
    match s.issuer.program with
    | [] => .next s
    | .line l :: rest => perform (.issue l) { s with issuer := { s.issuer with program := rest } }
    | .runBlock pins samples :: rest =>
      if (Item.runBlock pins samples).wellFormed then .next (s.beginBlock pins samples rest)
      else .refused .emptyBlock

/-- The reset events still to come, one step nearer (log entry 7). -/
def tick : List Nat → List Nat
  | [] => []
  | 0 :: later => 0 :: later
  | (k + 1) :: later => k :: later

/-- The action that issues one raw command, and nothing else. -/
def commandAction (c : Command) : Action := .issue { cw := c.cw, operands := c.operands.map .lit }

end Sys2Proof.Machine
end

