-- ==== Sys2Proof/Machine/Step.lean ====
section
/-! DEFINITION. One step of the machine. -/

namespace Sys2Proof.Machine

/-- One step: a reset event that is due (70_reset_and_hazards.md R240: "between any two commands"), or else one action of the
issuer, which is the one agent (00_scope.md R9). -/
def step (s : State) : Host.Outcome State Fault Refusal :=
  match s.resets with
  | 0 :: later => .next (s.resetBlock later)
  | resets => issuerStep { s with resets := tick resets }

/-- `s` with a command placed so that the very next step issues it: no reset is due, and the command stands before everything
the issuer would do. -/
def State.withCommand (s : State) (c : Command) : State :=
  { s with resets := [], issuer := { s.issuer with block := commandAction c :: s.issuer.block } }

/-- `s` with the opcode-table word `w` as the next command, its operands zeros; unchanged where `w` is above 16 bits, which is
no command (30_encoding.md R80). -/
def State.withFetchWord (s : State) (nbits w : Nat) : State :=
  match tableCommand nbits w with
  | some c => s.withCommand c
  | none => s

end Sys2Proof.Machine
end

