-- ==== Sys2Proof/Safety.lean ====
section
/-! DEFINITION. What counts as a safe run, in the terms claims use: no fault recorded, the block configured, and the invariant of
the registers, which the spec's rules promise and every step keeps. -/

namespace Sys2Proof.Machine

/-- No fault is recorded: "a model must treat "no fault recorded" as a premise and a conclusion of every claim about the
block" (60_exceptions.md R217). -/
abbrev Safe (s : State) : Prop := s.block.sys.fault = none

/-- The block is configured as 70_reset_and_hazards.md R242 requires before the first RUNBLOCK: FS, every RATE, the four
registers of every envelope, and WAVE are written. FREQ and AMP are not on the list. -/
structure Configured (b : Block) : Prop where
  fs : b.sys.fs.isSome
  rate : ∀ i : Fin nEdge, b.edge[i].rate.isSome
  attack : ∀ j : Fin nEnv, b.env[j].attack.isSome
  decay : ∀ j : Fin nEnv, b.env[j].decay.isSome
  min : ∀ j : Fin nEnv, b.env[j].min.isSome
  max : ∀ j : Fin nEnv, b.env[j].max.isSome
  wave : b.osc.wave.isSome

/-- Configured, and FREQ and AMP written too, as "an issuer that uses OSC.PROCESS outside RUNBLOCK must" (R242). -/
structure FullyConfigured (b : Block) : Prop extends Configured b where
  freq : b.osc.freq.isSome
  amp : b.osc.amp.isSome

/-- The invariant of one edge detector: CNT is below the threshold (10_state.md R28), 0 while RATE is unwritten; and RISE is 1
only while LEVEL is 1 (10_state.md R29). -/
structure EdgeInv (window : NUM) (e : EdgeRegs) : Prop where
  cnt : match e.rate with
    | some rate => e.cnt < threshold window rate
    | none => e.cnt = 0
  rise : e.rise = true → e.level = true

/-- ELAPSED "is 0 whenever STAGE is Idle" (10_state.md R35). -/
abbrev EnvInv (e : EnvRegs) : Prop := e.stage = .idle → e.elapsed = 0

/-- The invariant of the registers: FS above 0 when written (10_state.md R24), every edge detector and envelope as above,
`0 <= PHASE < 1` (R40), and the noise register not zero (R41). -/
structure BlockInv (window : NUM) (b : Block) : Prop where
  fs : ∀ v, b.sys.fs = some v → 0 < v
  edge : ∀ i : Fin nEdge, EdgeInv window b.edge[i]
  env : ∀ j : Fin nEnv, EnvInv b.env[j]
  phase : 0 ≤ b.osc.phase ∧ b.osc.phase < 1
  lfsr : b.noise.lfsr ≠ 0

/-- The invariant of the state: that of the registers, and OUT in its canonical form. -/
structure Inv (s : State) : Prop where
  block : BlockInv s.window s.block
  out : s.out.wf

/-- What any shape function used as WAVE must have: "peak magnitude 1 over a cycle" (42_oscillator.md R150), for each waveform and
phase increment. That the peak is reached at some phase is how the model reads it (log entry 4). -/
abbrev PeakOne (shape : Waveform → NUM → NUM → NUM) : Prop :=
  ∀ (w : Waveform) (inc : NUM),
    (∀ p : NUM, 0 ≤ p → p < 1 → |shape w p inc| ≤ 1) ∧ ∃ p : NUM, 0 ≤ p ∧ p < 1 ∧ |shape w p inc| = 1

/-- The raw levels that the EDGE.DEBOUNCE of instance `inst` among `ops` read, in order. -/
def readings (inst : Nibble) (ops : List Instr) : List Bool :=
  ops.filterMap fun
    | .edgeDebounce k raw => if k = inst then some raw else none
    | _ => none

/-- A list of operations performed one after the other, each to its end before the next begins (20_memory.md R69). -/
def execAll : List Instr → State → Result
  | [], s => .next s
  | i :: rest, s => andThen (exec i s) (execAll rest)

end Sys2Proof.Machine
end

