-- ==== Sys2Proof/Certificates/Slice0/Obligations.lean ====
section
/-! DEFINITION. The statements for the provers. Each docstring names the rule of the spec it formalises. Where a rule gives an
operation, the statement gives its command word, its next state in full (so what it leaves unchanged too), and where the rule
has one, the fault; the common checks of 60_exceptions.md R216 are the hypotheses `Safe s` (not halted) and the bound on INST. -/

open Sys2Proof Sys2Proof.Machine

/-! ### Encoding -/

/-- 30_encoding.md R83, R86, R90: no bit of an encoding and no operand is dropped. -/
def Obligations.DecodeOfEncodeIsTheOperation : Prop :=
  ∀ i : Instr, decode (encode i) = .ok i

/-- 30_encoding.md R83, R86, R90: a command that decodes is the encoding of what it decodes to, so no two commands mean the
same operation. -/
def Obligations.EncodeOfDecodeIsTheCommand : Prop :=
  ∀ (c : Command) (i : Instr), decode c = .ok i → encode i = c

/-- 30_encoding.md R83 against R90: the decoder reads a word as reserved exactly when no row's match and mask take it, and
reads an operation exactly when a row takes the word and the operand list is that row's (R86). -/
def Obligations.DecoderFollowsTheOpcodeMap : Prop :=
  ∀ c : Command,
    (decode c = .error .reserved ↔ ∀ r ∈ opcodeTable, r.spells c.cw = false) ∧
    ((∃ i, decode c = .ok i) ↔
      ∃ r ∈ opcodeTable, r.spells c.cw = true ∧ c.operands.map Value.kind = r.operands)

/-- 30_encoding.md R83: the rows do not overlap. -/
def Obligations.NoWordSpellsTwoRows : Prop :=
  ∀ (cw : Word) (r r' : OpRow), r ∈ opcodeTable → r' ∈ opcodeTable →
    r.spells cw = true → r'.spells cw = true → r = r'

/-- 30_encoding.md R88: the reserved words are the listed ones (UNIT 6 to 15; an OP the unit does not define; ENV OP 0 with FIELD
4 to 15; a non-zero bit where R85 requires zero). -/
def Obligations.ReservedWordsAreTheListedOnes : Prop :=
  ∀ (cw : Word) (operands : List Value), decode ⟨cw, operands⟩ = .error .reserved ↔
    let unit := (cw.extractLsb' 12 4).toNat
    let op := (cw.extractLsb' 8 4).toNat
    let fld := (cw.extractLsb' 0 4).toNat
    6 ≤ unit ∨
    (unit = 0 ∧ 2 ≤ op) ∨ (unit = 1 ∧ 3 ≤ op) ∨ (unit = 2 ∧ 3 ≤ op) ∨
    (unit = 3 ∧ 4 ≤ op) ∨ (unit = 4 ∧ 2 ≤ op) ∨ (unit = 5 ∧ 2 ≤ op) ∨
    (unit = 2 ∧ op = 0 ∧ 4 ≤ fld) ∨
    (unit = 1 ∧ op = 1 ∧ 2 ≤ fld) ∨ (unit = 3 ∧ op = 0 ∧ 4 ≤ fld) ∨ (unit = 5 ∧ op = 0 ∧ 2 ≤ fld) ∨
    (fld ≠ 0 ∧ ¬ (unit = 1 ∧ op = 1) ∧ ¬ (unit = 2 ∧ op = 0) ∧ ¬ (unit = 3 ∧ op = 0) ∧ ¬ (unit = 5 ∧ op = 0))

/-- Words of 95_test_vectors.md section 6 and 30_encoding.md R91, written out. -/
def Obligations.WordsWrittenOutDecode : Prop :=
  decode ⟨0x0000, []⟩ = .ok (.sysStatus 0) ∧
  decode ⟨0x0100, [.num 48000]⟩ = .ok (.sysSetfs 0 48000) ∧
  decode ⟨0x1131, []⟩ = .ok (.edgeDebounce 3 true) ∧
  decode ⟨0x2023, [.num (3 / 4)]⟩ = .ok (.envSetmax 2 (3 / 4)) ∧
  decode ⟨0x3003, []⟩ = .ok (.oscSetwave 0 .square) ∧
  decode ⟨0x4000, [.bits16 0x0001]⟩ = .ok (.noiseSeed 0 0x0001) ∧
  decode ⟨0x5001, []⟩ = .ok (.mixSetmode 0 .average) ∧
  decode ⟨0x2234, []⟩ = .error .reserved ∧
  decode ⟨0x1132, []⟩ = .error .reserved ∧
  decode ⟨0xFFFF, []⟩ = .error .reserved

/-! ### Faults and the halted state -/

/-- 60_exceptions.md R218: a halted block answers `SYS.STATUS 0` as R190 and ignores every other command, with no state change, so
the record is not overwritten; and the halted state does not end by itself: without a reset event no step changes any register.
The model's choice: that a command with a wrong operand list is ignored too (log entry 5, item V8 has no such command), that the
port then holds nothing (log entry 6), and that a reset event is an entry of `State.resets` (log entry 7). -/
def Obligations.HaltedBlockAnswersOnlyStatus : Prop :=
  ∀ (s : State) (r : FaultRecord), s.block.sys.fault = some r →
    (execute ⟨0x0000, []⟩ s = .next { s with resp := some (.status true r.cause.code r.cw) }) ∧
    (∀ c : Command, c ≠ ⟨0x0000, []⟩ → execute c s = .next { s with resp := none }) ∧
    (∀ t, (∀ later, s.resets ≠ 0 :: later) → step s = .next t → t.block = s.block)

/-- 60_exceptions.md R212 with R217: IllegalCommand is raised exactly by the reserved words. -/
def Obligations.ReservedWordsRaiseIllegalCommand : Prop :=
  ∀ (s : State) (c : Command), Safe s →
    (decode c = .error .reserved →
      execute c s = .next { s with
        block := { s.block with sys := { s.block.sys with fault := some ⟨.illegalCommand, c.cw⟩ } }, resp := none }) ∧
    (∀ t w, execute c s = .next t → t.block.sys.fault = some ⟨.illegalCommand, w⟩ → decode c = .error .reserved)

/-- 60_exceptions.md R213: BadInstance is raised exactly by an operation whose INST is at or above `N_U`, with the counts of the
rule. -/
def Obligations.MissingInstancesRaiseBadInstance : Prop :=
  (UnitKind.sys.count = 1 ∧ UnitKind.edge.count = 4 ∧ UnitKind.env.count = 3 ∧ UnitKind.osc.count = 1 ∧
    UnitKind.noise.count = 1 ∧ UnitKind.mix.count = 1) ∧
  ∀ (s : State) (i : Instr), Safe s →
    (i.unit.count ≤ i.inst.toNat →
      exec i s = .next { s with
        block := { s.block with sys := { s.block.sys with fault := some ⟨.badInstance, i.word⟩ } }, resp := none }) ∧
    (∀ t w, exec i s = .next t → t.block.sys.fault = some ⟨.badInstance, w⟩ → i.unit.count ≤ i.inst.toNat)

/-- 60_exceptions.md R214: BadConfig is raised exactly by SYS.SETFS with an operand not above 0. -/
def Obligations.NonPositiveRatesRaiseBadConfig : Prop :=
  ∀ (s : State), Safe s →
    (∀ v : NUM, v ≤ 0 →
      exec (.sysSetfs 0 v) s = .next { s with
        block := { s.block with sys := { s.block.sys with fault := some ⟨.badConfig, 0x0100⟩ } }, resp := none }) ∧
    (∀ (i : Instr) (t : State) (w : Word), exec i s = .next t → t.block.sys.fault = some ⟨.badConfig, w⟩ →
      ∃ v : NUM, v ≤ 0 ∧ i = .sysSetfs 0 v)

/-- 60_exceptions.md R215: Unconfigured is raised exactly by an EDGE.DEBOUNCE, ENV.PROCESS or OSC.PROCESS of an existing instance
that needs a register still unwritten, and then nothing else has changed. -/
def Obligations.UnwrittenRegistersRaiseUnconfigured : Prop :=
  ∀ (s : State) (i : Instr), Safe s → i.wellFormed = true →
    (((∃ (k : Fin 4) (inst : Nibble) (raw : Bool), inst.toNat = k.val ∧ i = .edgeDebounce inst raw ∧
        s.block.edge[k].rate = none) ∨
      (∃ (j : Fin 3) (inst : Nibble), inst.toNat = j.val ∧ i = .envProcess inst ∧
        (s.block.sys.fs = none ∨ s.block.env[j].attack = none ∨ s.block.env[j].decay = none ∨
          s.block.env[j].min = none ∨ s.block.env[j].max = none)) ∨
      (i = .oscProcess 0 ∧
        (s.block.sys.fs = none ∨ s.block.osc.wave = none ∨ s.block.osc.freq = none ∨ s.block.osc.amp = none))) →
      exec i s = .next { s with
        block := { s.block with sys := { s.block.sys with fault := some ⟨.unconfigured, i.word⟩ } }, resp := none }) ∧
    (∀ t w, exec i s = .next t → t.block.sys.fault = some ⟨.unconfigured, w⟩ →
      (∃ (k : Fin 4) (inst : Nibble) (raw : Bool), inst.toNat = k.val ∧ i = .edgeDebounce inst raw ∧
        s.block.edge[k].rate = none) ∨
      (∃ (j : Fin 3) (inst : Nibble), inst.toNat = j.val ∧ i = .envProcess inst ∧
        (s.block.sys.fs = none ∨ s.block.env[j].attack = none ∨ s.block.env[j].decay = none ∨
          s.block.env[j].min = none ∨ s.block.env[j].max = none)) ∨
      (i = .oscProcess 0 ∧
        (s.block.sys.fs = none ∨ s.block.osc.wave = none ∨ s.block.osc.freq = none ∨ s.block.osc.amp = none)))

/-- 60_exceptions.md R217: a command that faults writes the record with its own word and does nothing else, and it answers
nothing. -/
def Obligations.FaultsArePrecise : Prop :=
  ∀ (s t : State) (c : Command) (r : FaultRecord), Safe s → execute c s = .next t → t.block.sys.fault = some r →
    r.cw = c.cw ∧
    t = { s with block := { s.block with sys := { s.block.sys with fault := some ⟨r.cause, c.cw⟩ } }, resp := none }

/-- 60_exceptions.md R219: no step clears or replaces a fault record, but the reset event, which discards all configuration.
That a reset event is an entry of `State.resets` is the model's choice (log entry 7). -/
def Obligations.OnlyResetClearsTheFaultRecord : Prop :=
  ∀ (s t : State) (r : FaultRecord), s.block.sys.fault = some r → step s = .next t →
    t.block.sys.fault = some r ∨ (∃ later, s.resets = 0 :: later ∧ t.block = Block.reset)

/-- 60_exceptions.md R210, with the last sentence of 70_reset_and_hazards.md R242 for OSC.PROCESS outside RUNBLOCK: a configured
block given well-formed commands for existing instances never faults, however many there are; it stays configured. -/
def Obligations.ConfiguredBlocksNeverFault : Prop :=
  ∀ (commands : List Instr) (s : State), FullyConfigured s.block → Safe s →
    (∀ i ∈ commands, i.wellFormed = true ∧ ∀ inst v, i = .sysSetfs inst v → 0 < v) →
    ∃ t, execAll commands s = .next t ∧ Safe t ∧ FullyConfigured t.block

/-- 00_scope.md R13 ("all operations are numeric and total") and item V8: every operation ends in a next state, and a raw
command does too unless it carries a wrong operand list to a block that is not halted (refused: the model's choice, log entry 5). -/
def Obligations.EveryOperationEndsInANextState : Prop :=
  (∀ (i : Instr) (s : State), ∃ t, exec i s = .next t) ∧
  (∀ (c : Command) (s : State), (∃ t, execute c s = .next t) ∨
    (Safe s ∧ decode c = .error .wrongOperands ∧ execute c s = .refused .wrongOperands))

/-! ### SYS -/

/-- 45_system_and_sequencer.md R190: the triple with and without a record; a non-zero INST and a reserved form of the word fault. -/
def Obligations.StatusReportsTheRecord : Prop :=
  (Instr.sysStatus 0).word = 0x0000 ∧
  (FaultCause.illegalCommand.code = 1 ∧ FaultCause.badInstance.code = 2 ∧ FaultCause.badConfig.code = 3 ∧
    FaultCause.unconfigured.code = 4) ∧
  ∀ s : State,
    (s.block.sys.fault = none → exec (.sysStatus 0) s = .next { s with resp := some (.status false 0 0x0000) }) ∧
    (∀ r, s.block.sys.fault = some r →
      exec (.sysStatus 0) s = .next { s with resp := some (.status true r.cause.code r.cw) }) ∧
    (∀ inst : Nibble, inst ≠ 0 → Safe s →
      exec (.sysStatus inst) s = .next { s with
        block := { s.block with sys := { s.block.sys with fault := some ⟨.badInstance, (Instr.sysStatus inst).word⟩ } },
        resp := none }) ∧
    (∀ (inst fld : Nibble) (operands : List Value), fld ≠ 0 → Safe s →
      execute ⟨packWord 0 0 inst fld, operands⟩ s = .next { s with
        block := { s.block with sys := { s.block.sys with fault := some ⟨.illegalCommand, packWord 0 0 inst fld⟩ } },
        resp := none })

/-- 45_system_and_sequencer.md R191. -/
def Obligations.SetfsWritesAPositiveRate : Prop :=
  ∀ (s : State) (v : NUM), Safe s →
    (Instr.sysSetfs 0 v).word = 0x0100 ∧
    (0 < v → exec (.sysSetfs 0 v) s = .next { s with
      block := { s.block with sys := { s.block.sys with fs := some v } }, resp := some .empty }) ∧
    (v ≤ 0 → exec (.sysSetfs 0 v) s = .next { s with
      block := { s.block with sys := { s.block.sys with fault := some ⟨.badConfig, 0x0100⟩ } }, resp := none })

/-! ### EDGE -/

/-- 40_edge_detector.md R100: `thr` is `max(1, ceil(DEBOUNCE_WINDOW * RATE))`, said by its two properties: it is at least 1, and a
positive count reaches it exactly when it reaches the window measured in calls. -/
def Obligations.ThresholdIsTheWindowInCalls : Prop :=
  ∀ (window rate : NUM), 1 ≤ threshold window rate ∧
    ∀ n : Nat, 1 ≤ n → (threshold window rate ≤ n ↔ window * rate ≤ (n : NUM))

/-- 40_edge_detector.md R101. -/
def Obligations.EdgeInitClearsTheDetector : Prop :=
  ∀ (s : State) (inst : Nibble) (h : inst.toNat < 4) (rate : NUM), Safe s →
    (Instr.edgeInit inst rate).word = 0x1000 ||| (inst.setWidth 16 <<< 4) ∧
    exec (.edgeInit inst rate) s = .next { s with
      block := { s.block with edge := s.block.edge.set inst.toNat ⟨some rate, false, 0, false⟩ h }, resp := some .empty }

/-- 40_edge_detector.md R102: a reading equal to LEVEL, one that differs and reaches the threshold, one that differs and does not;
and Unconfigured while RATE is unwritten. -/
def Obligations.DebounceCountsDifferingReadings : Prop :=
  ∀ (s : State) (inst : Nibble) (h : inst.toNat < 4) (raw : Bool), Safe s →
    (Instr.edgeDebounce inst raw).word = (0x1100 ||| (inst.setWidth 16 <<< 4) ||| (if raw then 1 else 0)) ∧
    (∀ rate, s.block.edge[inst.toNat].rate = some rate →
      let e := s.block.edge[inst.toNat]
      exec (.edgeDebounce inst raw) s = .next { s with
        block := { s.block with
          edge := s.block.edge.set inst.toNat
            (if raw = e.level then ⟨some rate, e.level, 0, false⟩
             else if threshold s.window rate ≤ e.cnt + 1 then ⟨some rate, raw, 0, raw⟩
             else ⟨some rate, e.level, e.cnt + 1, false⟩) h },
        resp := some .empty }) ∧
    (s.block.edge[inst.toNat].rate = none →
      exec (.edgeDebounce inst raw) s = .next { s with
        block := { s.block with
          sys := { s.block.sys with fault := some ⟨.unconfigured, (Instr.edgeDebounce inst raw).word⟩ } },
        resp := none })

/-- 40_edge_detector.md R103. -/
def Obligations.RisingAnswersAndClearsTheFlag : Prop :=
  ∀ (s : State) (inst : Nibble) (h : inst.toNat < 4), Safe s →
    (Instr.edgeRising inst).word = 0x1200 ||| (inst.setWidth 16 <<< 4) ∧
    exec (.edgeRising inst) s = .next { s with
      block := { s.block with edge := s.block.edge.set inst.toNat { s.block.edge[inst.toNat] with rise := false } h },
      resp := some (.bit s.block.edge[inst.toNat].rise) }

/-- 40_edge_detector.md R104 item 2: of an instance that EDGE.INIT initialised, whatever operations follow (EDGE.RISING of the
instance and operations of other units and instances among them), LEVEL changes only inside EDGE.DEBOUNCE of that instance, and only
to a value that the last `thr` of its EDGE.DEBOUNCE since the EDGE.INIT all read. A later EDGE.INIT begins anew. -/
def Obligations.LevelMovesOnlyAfterThresholdEqualReadings : Prop :=
  ∀ (s t u : State) (inst : Nibble) (h : inst.toNat < 4) (rate : NUM) (between : List Instr) (last : Instr), Safe s →
    (∀ again, Instr.edgeInit inst again ∉ between ++ [last]) →
    execAll (.edgeInit inst rate :: between) s = .next t → exec last t = .next u →
    u.block.edge[inst.toNat].level ≠ t.block.edge[inst.toNat].level →
    last = .edgeDebounce inst u.block.edge[inst.toNat].level ∧
    ∃ before, readings inst (between ++ [last]) =
      before ++ List.replicate (threshold s.window rate) u.block.edge[inst.toNat].level

/-- 40_edge_detector.md R104 item 5 and 70_reset_and_hazards.md R251: a pin held high after EDGE.INIT raises RISE at call `thr`
and at no other. -/
def Obligations.HeldPinRaisesOneEdge : Prop :=
  ∀ (s : State) (inst : Nibble) (h : inst.toNat < 4) (rate : NUM) (n : Nat), Safe s →
    ∃ t, execAll (.edgeInit inst rate :: List.replicate n (.edgeDebounce inst true)) s = .next t ∧
      t.block.edge[inst.toNat] =
        if n < threshold s.window rate then ⟨some rate, false, n, false⟩
        else if n = threshold s.window rate then ⟨some rate, true, 0, true⟩
        else ⟨some rate, true, 0, false⟩

/-- 40_edge_detector.md R104 item 3: between two responses of 1 to EDGE.RISING, whatever commands stand between them, LEVEL has
gone from 1 to 0 and back. From a state that meets the invariant. -/
def Obligations.RisingAnswersOncePerMove : Prop :=
  ∀ (s t u v : State) (inst : Nibble) (h : inst.toNat < 4) (between : List Instr), BlockInv s.window s.block →
    exec (.edgeRising inst) s = .next t → t.resp = some (.bit true) →
    execAll between t = .next u →
    exec (.edgeRising inst) u = .next v → v.resp = some (.bit true) →
    t.block.edge[inst.toNat].level = true ∧ u.block.edge[inst.toNat].level = true ∧
    ∃ before after w, between = before ++ after ∧ execAll before t = .next w ∧
      w.block.edge[inst.toNat].level = false

/-! ### ENV -/

/-- 41_envelope_generator.md R122, R123, R124, R125. -/
def Obligations.EnvelopeConfigurationWrites : Prop :=
  ∀ (s : State) (inst : Nibble) (h : inst.toNat < 3) (v : NUM), Safe s →
    ((Instr.envSetattack inst v).word = 0x2000 ||| (inst.setWidth 16 <<< 4) ∧
      exec (.envSetattack inst v) s = .next { s with
        block := { s.block with env := s.block.env.set inst.toNat { s.block.env[inst.toNat] with attack := some v } h },
        resp := some .empty }) ∧
    ((Instr.envSetdecay inst v).word = 0x2001 ||| (inst.setWidth 16 <<< 4) ∧
      exec (.envSetdecay inst v) s = .next { s with
        block := { s.block with env := s.block.env.set inst.toNat { s.block.env[inst.toNat] with decay := some v } h },
        resp := some .empty }) ∧
    ((Instr.envSetmin inst v).word = 0x2002 ||| (inst.setWidth 16 <<< 4) ∧
      exec (.envSetmin inst v) s = .next { s with
        block := { s.block with env := s.block.env.set inst.toNat { s.block.env[inst.toNat] with min := some v } h },
        resp := some .empty }) ∧
    ((Instr.envSetmax inst v).word = 0x2003 ||| (inst.setWidth 16 <<< 4) ∧
      exec (.envSetmax inst v) s = .next { s with
        block := { s.block with env := s.block.env.set inst.toNat { s.block.env[inst.toNat] with max := some v } h },
        resp := some .empty })

/-- 41_envelope_generator.md R126: from any stage, and with any register unwritten. -/
def Obligations.TriggerRestartsTheAttack : Prop :=
  ∀ (s : State) (inst : Nibble) (h : inst.toNat < 3), Safe s →
    (Instr.envTrigger inst).word = 0x2100 ||| (inst.setWidth 16 <<< 4) ∧
    exec (.envTrigger inst) s = .next { s with
      block := { s.block with
        env := s.block.env.set inst.toNat { s.block.env[inst.toNat] with stage := .attack, elapsed := 0 } h },
      resp := some .empty }

/-- 41_envelope_generator.md R127 with the segment lengths of R121: the three stages, both ways out of a running segment, and
Unconfigured with any of the five registers unwritten, in every stage. -/
def Obligations.EnvelopeProcessFollowsTheStage : Prop :=
  ∀ (s : State) (inst : Nibble) (h : inst.toNat < 3), Safe s →
    let e := s.block.env[inst.toNat]
    let n := e.elapsed + 1
    (Instr.envProcess inst).word = 0x2200 ||| (inst.setWidth 16 <<< 4) ∧
    (∀ fs attack decay lo hi : NUM, s.block.sys.fs = some fs → e.attack = some attack → e.decay = some decay →
      e.min = some lo → e.max = some hi →
      let after := fun (stage : Stage) (elapsed : Nat) (v : NUM) =>
        ({ s with
           block := { s.block with env := s.block.env.set inst.toNat { e with stage := stage, elapsed := elapsed } h },
           resp := some (.num v) } : State)
      (e.stage = .idle → exec (.envProcess inst) s = .next { s with resp := some (.num lo) }) ∧
      (e.stage = .attack → attack * fs ≤ n → exec (.envProcess inst) s = .next (after .decay 0 hi)) ∧
      (e.stage = .attack → n < attack * fs →
        exec (.envProcess inst) s = .next (after .attack n (lo + n / (attack * fs) * (hi - lo)))) ∧
      (e.stage = .decay → decay * fs ≤ n → exec (.envProcess inst) s = .next (after .idle 0 lo)) ∧
      (e.stage = .decay → n < decay * fs →
        exec (.envProcess inst) s = .next (after .decay n (hi - n / (decay * fs) * (hi - lo))))) ∧
    (s.block.sys.fs = none ∨ e.attack = none ∨ e.decay = none ∨ e.min = none ∨ e.max = none →
      exec (.envProcess inst) s = .next { s with
        block := { s.block with sys := { s.block.sys with fault := some ⟨.unconfigured, (Instr.envProcess inst).word⟩ } },
        resp := none })

/-- 41_envelope_generator.md R128: every value ENV.PROCESS answers lies between MIN and MAX inclusive, whichever is the larger,
and is MIN in Idle. -/
def Obligations.EnvelopeValuesStayInRange : Prop :=
  ∀ (s t : State) (inst : Nibble) (h : inst.toNat < 3) (lo hi v : NUM),
    s.block.env[inst.toNat].min = some lo → s.block.env[inst.toNat].max = some hi →
    exec (.envProcess inst) s = .next t → t.resp = some (.num v) →
    min lo hi ≤ v ∧ v ≤ max lo hi ∧ (s.block.env[inst.toNat].stage = .idle → v = lo)

/-- 41_envelope_generator.md R129: after ENV.TRIGGER the next value is one step up from MIN when `A > 1`, whatever stage the
envelope was in; it is closer to MIN than to a prior value further from MIN than `2 * (MAX - MIN) / A`; and it is MAX for a
zero-length attack. -/
def Obligations.RetriggerRestartsFromMin : Prop :=
  ∀ (s : State) (inst : Nibble) (h : inst.toNat < 3) (fs attack decay lo hi : NUM), Safe s →
    s.block.sys.fs = some fs → s.block.env[inst.toNat].attack = some attack → s.block.env[inst.toNat].decay = some decay →
    s.block.env[inst.toNat].min = some lo → s.block.env[inst.toNat].max = some hi →
    ∃ t, execAll [.envTrigger inst, .envProcess inst] s = .next t ∧
      (1 < attack * fs → t.resp = some (.num (lo + 1 / (attack * fs) * (hi - lo))) ∧
        ∀ prior : NUM, 2 * |hi - lo| / (attack * fs) < |prior - lo| →
          |lo + 1 / (attack * fs) * (hi - lo) - lo| < |lo + 1 / (attack * fs) * (hi - lo) - prior|) ∧
      (attack ≤ 0 → 0 < fs → t.resp = some (.num hi))

/-- 41_envelope_generator.md R130: a segment with `A <= 1` or `D <= 1` takes exactly one ENV.PROCESS; with both times not above 0 a
trigger yields MAX, then MIN, then Idle. -/
def Obligations.ZeroLengthSegmentsTakeOneCall : Prop :=
  ∀ (s : State) (inst : Nibble) (h : inst.toNat < 3) (fs attack decay lo hi : NUM), Safe s →
    s.block.sys.fs = some fs → s.block.env[inst.toNat].attack = some attack → s.block.env[inst.toNat].decay = some decay →
    s.block.env[inst.toNat].min = some lo → s.block.env[inst.toNat].max = some hi →
    (attack * fs ≤ 1 → ∃ t, execAll [.envTrigger inst, .envProcess inst] s = .next t ∧ t.resp = some (.num hi) ∧
      t.block.env[inst.toNat].stage = .decay ∧ t.block.env[inst.toNat].elapsed = 0) ∧
    (decay * fs ≤ 1 → s.block.env[inst.toNat].stage = .decay →
      ∃ t, exec (.envProcess inst) s = .next t ∧ t.resp = some (.num lo) ∧
        t.block.env[inst.toNat].stage = .idle ∧ t.block.env[inst.toNat].elapsed = 0) ∧
    (attack ≤ 0 → decay ≤ 0 → 0 < fs →
      ∃ t u, execAll [.envTrigger inst, .envProcess inst] s = .next t ∧ t.resp = some (.num hi) ∧
        exec (.envProcess inst) t = .next u ∧ u.resp = some (.num lo) ∧ u.block.env[inst.toNat].stage = .idle)

/-- 41_envelope_generator.md R131: count ENV.PROCESS calls from 1 after the trigger; the attack completes at call
`nA = max(1, ceil(A))` with MAX, the decay at call `nA + nD` with MIN, the values between are the two straight lines, and every
later call answers MIN. -/
def Obligations.FullEnvelopeLengthAndValues : Prop :=
  ∀ (s : State) (inst : Nibble) (h : inst.toNat < 3) (fs attack decay lo hi : NUM) (n : Nat), Safe s →
    s.block.sys.fs = some fs → s.block.env[inst.toNat].attack = some attack → s.block.env[inst.toNat].decay = some decay →
    s.block.env[inst.toNat].min = some lo → s.block.env[inst.toNat].max = some hi → 1 ≤ n →
    let nA := (max 1 ⌈attack * fs⌉).toNat
    let nD := (max 1 ⌈decay * fs⌉).toNat
    ∃ t, execAll (.envTrigger inst :: List.replicate n (.envProcess inst)) s = .next t ∧
      (let e := t.block.env[inst.toNat]
       (n < nA → t.resp = some (.num (lo + n / (attack * fs) * (hi - lo))) ∧ e.stage = .attack ∧ e.elapsed = n) ∧
       (n = nA → t.resp = some (.num hi) ∧ e.stage = .decay ∧ e.elapsed = 0) ∧
       (nA < n → n < nA + nD →
         t.resp = some (.num (hi - ((n - nA : Nat) : NUM) / (decay * fs) * (hi - lo))) ∧
         e.stage = .decay ∧ e.elapsed = n - nA) ∧
       (nA + nD ≤ n → t.resp = some (.num lo) ∧ e.stage = .idle ∧ e.elapsed = 0))

/-- 41_envelope_generator.md R120: the four transitions and no others, over every operation; only ENV.TRIGGER and ENV.PROCESS of
the same envelope change STAGE or ELAPSED. -/
def Obligations.StageMovesAsTheStateMachineSays : Prop :=
  ∀ (s t : State) (i : Instr) (j : Fin 3), exec i s = .next t →
    (t.block.env[j].stage ≠ s.block.env[j].stage ∨ t.block.env[j].elapsed ≠ s.block.env[j].elapsed) →
    (∃ inst : Nibble, inst.toNat = j.val ∧ i = .envTrigger inst ∧
      t.block.env[j].stage = .attack ∧ t.block.env[j].elapsed = 0) ∨
    (∃ inst : Nibble, inst.toNat = j.val ∧ i = .envProcess inst ∧
      ((s.block.env[j].stage = .attack ∧ (t.block.env[j].stage = .attack ∨ t.block.env[j].stage = .decay)) ∨
       (s.block.env[j].stage = .decay ∧ (t.block.env[j].stage = .decay ∨ t.block.env[j].stage = .idle))))

/-! ### OSC -/

/-- 42_oscillator.md R153, R154, R155. -/
def Obligations.OscillatorSetters : Prop :=
  ∀ (s : State), Safe s →
    (∀ w : Waveform, (Instr.oscSetwave 0 w).word =
        (match w with | .triangle => 0x3000 | .sine => 0x3001 | .saw => 0x3002 | .square => 0x3003) ∧
      exec (.oscSetwave 0 w) s = .next { s with
        block := { s.block with osc := { s.block.osc with wave := some w } }, resp := some .empty }) ∧
    (∀ f : NUM, (Instr.oscSetfreq 0 f).word = 0x3100 ∧
      exec (.oscSetfreq 0 f) s = .next { s with
        block := { s.block with osc := { s.block.osc with freq := some f } }, resp := some .empty }) ∧
    (∀ a : NUM, (Instr.oscSetamp 0 a).word = 0x3200 ∧
      exec (.oscSetamp 0 a) s = .next { s with
        block := { s.block with osc := { s.block.osc with amp := some a } }, resp := some .empty })

/-- 42_oscillator.md R156: advance, wrap into `[0, 1)`, evaluate, scale, FS being above 0 by 10_state.md R24; and
Unconfigured with one of the four registers unwritten. The shape is whichever the parameter WAVE selects (R150). -/
def Obligations.OscillatorProcessAdvancesThenEvaluates : Prop :=
  ∀ (s : State), Safe s →
    (Instr.oscProcess 0).word = 0x3300 ∧
    (∀ (fs freq amp : NUM) (w : Waveform), s.block.sys.fs = some fs → 0 < fs → s.block.osc.wave = some w →
      s.block.osc.freq = some freq → s.block.osc.amp = some amp →
      ∃ phase : NUM, 0 ≤ phase ∧ phase < 1 ∧ (∃ turns : Int, s.block.osc.phase + freq / fs = turns + phase) ∧
        exec (.oscProcess 0) s = .next { s with
          block := { s.block with osc := { s.block.osc with phase := phase } },
          resp := some (.num (amp * waveOf s.shape w phase (freq / fs))) }) ∧
    (s.block.sys.fs = none ∨ s.block.osc.wave = none ∨ s.block.osc.freq = none ∨ s.block.osc.amp = none →
      exec (.oscProcess 0) s = .next { s with
        block := { s.block with sys := { s.block.sys with fault := some ⟨.unconfigured, 0x3300⟩ } }, resp := none })

/-- 42_oscillator.md R151 and R152: the four default shapes, and all that may be assumed of SINE, whatever its open values
(log entry 3). -/
def Obligations.DefaultWaveShapes : Prop :=
  (∀ p inc : NUM, wave .triangle p inc = |4 * p - 2| - 1 ∧ wave .sine p inc = sine p ∧ wave .saw p inc = 1 - 2 * p ∧
    wave .square p inc = if p < 1 / 2 then 1 else -1) ∧
  sine 0 = 0 ∧ sine (1 / 4) = 1 ∧ sine (1 / 2) = 0 ∧ sine (3 / 4) = -1 ∧ ∀ p : NUM, -1 ≤ sine p ∧ sine p ≤ 1

/-- 42_oscillator.md R150: whichever shape the parameter WAVE selects has peak magnitude 1 over a cycle (reached at some phase:
log entry 4), and so AMP scales the peak output: no sample of OSC.PROCESS is larger than `|AMP|`, and from some phase the next
sample is that large. -/
def Obligations.WavePeaksAtOneAndAmpScalesIt : Prop :=
  (∀ shape : Shape, PeakOne (waveOf shape)) ∧
  (∀ (s t : State) (amp v : NUM), Inv s → s.block.osc.amp = some amp →
    exec (.oscProcess 0) s = .next t → t.resp = some (.num v) → |v| ≤ |amp|) ∧
  ∀ (s : State) (fs freq amp : NUM) (w : Waveform), Safe s → s.block.sys.fs = some fs → 0 < fs →
    s.block.osc.wave = some w → s.block.osc.freq = some freq → s.block.osc.amp = some amp →
    ∃ (phase v : NUM) (t : State), 0 ≤ phase ∧ phase < 1 ∧
      exec (.oscProcess 0) { s with block := { s.block with osc := { s.block.osc with phase := phase } } } = .next t ∧
      t.resp = some (.num v) ∧ |v| = |amp|

/-- 42_oscillator.md R157: after `n` calls the phase has advanced by `n` increments, and it is back at its value exactly when the
denominator of `FREQ / FS` in lowest terms divides `n`. -/
def Obligations.PhaseReturnsAfterTheDenominator : Prop :=
  ∀ (s : State) (fs freq amp : NUM) (w : Waveform) (n : Nat), Safe s → 0 ≤ s.block.osc.phase → s.block.osc.phase < 1 →
    s.block.sys.fs = some fs → 0 < fs → s.block.osc.wave = some w → s.block.osc.freq = some freq → s.block.osc.amp = some amp →
    ∃ t, execAll (List.replicate n (.oscProcess 0)) s = .next t ∧
      (∃ turns : Int, s.block.osc.phase + n * (freq / fs) = turns + t.block.osc.phase) ∧
      0 ≤ t.block.osc.phase ∧ t.block.osc.phase < 1 ∧
      (t.block.osc.phase = s.block.osc.phase ↔ (freq / fs).den ∣ n)

/-! ### NOISE -/

/-- 43_noise_generator.md R170: one shift, bit by bit. -/
def Obligations.ShiftDropsBitZeroAndFeedsBitFifteen : Prop :=
  ∀ l : Word, (∀ k, k < 15 → (lfsrStep l).getLsbD k = l.getLsbD (k + 1)) ∧
    (lfsrStep l).getLsbD 15 = (l.getLsbD 0 ^^ l.getLsbD 2 ^^ l.getLsbD 3 ^^ l.getLsbD 5)

/-- 43_noise_generator.md R172. -/
def Obligations.SeedLoadsTheRegister : Prop :=
  ∀ (s : State) (seed : Word), Safe s →
    (Instr.noiseSeed 0 seed).word = 0x4000 ∧
    (seed = 0x0000 → exec (.noiseSeed 0 seed) s = .next { s with
      block := { s.block with noise := ⟨0xACE1⟩ }, resp := some .empty }) ∧
    (seed ≠ 0x0000 → exec (.noiseSeed 0 seed) s = .next { s with
      block := { s.block with noise := ⟨seed⟩ }, resp := some .empty })

/-- 43_noise_generator.md R173 with the sample of R171: sixteen shifts, and the new state as a two's-complement number over
`2 ^ 15`. -/
def Obligations.NoiseProcessShiftsSixteenTimes : Prop :=
  ∀ (s : State), Safe s →
    (Instr.noiseProcess 0).word = 0x4100 ∧
    (let l := lfsrStep^[16] s.block.noise.lfsr
     exec (.noiseProcess 0) s = .next { s with
       block := { s.block with noise := ⟨l⟩ },
       resp := some (.num (((if l.getLsbD 15 then (l.toNat : Int) - 65536 else l.toNat) : Int) / 32768)) })

/-- 43_noise_generator.md R171 and the first sentence of R174: the register is never zero, the samples lie in
`[-1, 32767/32768]`, and none is 0. -/
def Obligations.NoiseNeverLocksUpAndStaysInRange : Prop :=
  (∀ l : Word, l ≠ 0 → lfsrStep l ≠ 0) ∧
  (∀ l : Word, -1 ≤ noiseSample l ∧ noiseSample l ≤ 32767 / 32768 ∧ (l ≠ 0 → noiseSample l ≠ 0)) ∧
  ∀ (i : Instr) (s t : State), s.block.noise.lfsr ≠ 0 → exec i s = .next t → t.block.noise.lfsr ≠ 0

/-! ### MIX -/

/-- 44_voice_mixer.md R181. -/
def Obligations.SetmodeWritesTheMode : Prop :=
  ∀ (s : State) (m : MixMode), Safe s →
    (Instr.mixSetmode 0 m).word = (match m with | .observed => 0x5000 | .average => 0x5001) ∧
    exec (.mixSetmode 0 m) s = .next { s with block := { s.block with mix := ⟨m⟩ }, resp := some .empty }

/-- 44_voice_mixer.md R182: both modes; no register changes. -/
def Obligations.MixProcessFollowsTheMode : Prop :=
  ∀ (s : State) (click bass snare noise env : NUM), Safe s →
    let active : Nat := (if click ≠ 0 then 1 else 0) + (if bass ≠ 0 then 1 else 0) + (if snare ≠ 0 then 1 else 0)
    let osc : NUM := match s.block.mix.mode with
      | .observed => click
      | .average => if active = 0 then 0 else (click + bass + snare) / active
    let out : NUM := 1 / 2 * (noise * env) + 1 / 2 * osc
    (Instr.mixProcess 0 click bass snare noise env).word = 0x5100 ∧
    exec (.mixProcess 0 click bass snare noise env) s = .next { s with resp := some (.frame out out active) }

/-- 44_voice_mixer.md R183: in OBSERVED mode the bass and snare samples do not reach the output, and the two modes agree whenever
both are zero. -/
def Obligations.ObservedModeDiscardsBassAndSnare : Prop :=
  (∀ click bass snare bass' snare' noise env : NUM,
    mixOut .observed click bass snare noise env = mixOut .observed click bass' snare' noise env) ∧
  ∀ click noise env : NUM, mixOut .average click 0 0 noise env = mixOut .observed click 0 0 noise env

/-- 44_voice_mixer.md R184: what the rules give without a limiter. -/
def Obligations.MixHeadroom : Prop :=
  (∀ (m : MixMode) (click bass snare noise env : NUM),
    |mixOut m click bass snare noise env| ≤ 1 / 2 * |noise| * |env| + 1 / 2 * |oscMix m click bass snare|) ∧
  ∀ click bass snare noise env : NUM, |noise| ≤ 1 → 0 ≤ env → env ≤ 1 → |click| ≤ 1 →
    |mixOut .observed click bass snare noise env| ≤ 1

/-- 44_voice_mixer.md R185: the "tiss alone" and "click alone" identities, under the preconditions of conflict C5. -/
def Obligations.MixEndToEndIdentities : Prop :=
  (∀ (m : MixMode) (noise env : NUM), mixOut m 0 0 0 noise env = 1 / 2 * noise * env) ∧
  (∀ click bass snare noise : NUM, mixOut .observed click bass snare noise 0 = 1 / 2 * click) ∧
  ∀ click noise : NUM, mixOut .average click 0 0 noise 0 = 1 / 2 * click

/-! ### OUT -/

/-- 20_memory.md R60: slots below the size can be written and no others; a slot reads what was last written to it, and a write
leaves every other slot alone. That a write elsewhere fails, and that an unwritten slot reads as no value, is the model's choice
(log entry 10). -/
def Obligations.OutReadsWhatWasWritten : Prop :=
  ∀ (m : Memory) (slot : Nat) (v : NUM), m.wf →
    (slot < m.size → ∃ m', m.write slot v = some m' ∧ m'.size = m.size ∧
      ∀ k, m'.read k = if k = slot then some v else m.read k) ∧
    (m.size ≤ slot → m.write slot v = none)

/-! ### The step, the reset event, the invariant, the frame -/

/-- A step runs the operation its command decodes to: the next action of the issuer is the command, or the next line of its
program is; the rest of a RUNBLOCK is dropped when the block is halted after it (45_system_and_sequencer.md R193, log entry 8). -/
def Obligations.StepRunsTheDecodedOperation : Prop :=
  ∀ (s t : State) (c : Command) (i : Instr), (∀ later, s.resets ≠ 0 :: later) → decode c = .ok i →
    (∀ rest, s.issuer.block = commandAction c :: rest →
      exec i { s with resets := tick s.resets, issuer := { s.issuer with block := rest } } = .next t →
      step s = .next { t with issuer := { s.issuer with block := if t.block.sys.fault.isSome then [] else rest } }) ∧
    (∀ rest, s.issuer.block = [] →
      s.issuer.program = .line { cw := c.cw, operands := c.operands.map .lit } :: rest →
      exec i { s with resets := tick s.resets, issuer := { s.issuer with program := rest } } = .next t →
      step s = .next { t with issuer := { s.issuer with program := rest } })

/-- 70_reset_and_hazards.md R240 and R241: a reset event that is due takes the step, and nothing of the block survives. The issuer
and OUT are not the block's (log entry 7). -/
def Obligations.ResetEventRestoresTheResetValues : Prop :=
  ∀ (s : State) (later : List Nat), s.resets = 0 :: later →
    step s = .next { s with block := State.reset.block, resp := none, resets := later }

/-- 10_state.md R45. -/
def Obligations.ResetValues : Prop :=
  let b := State.reset.block
  b.sys.fs = none ∧ b.sys.fault = none ∧
  (∀ i : Fin 4, b.edge[i].rate = none ∧ b.edge[i].level = false ∧ b.edge[i].cnt = 0 ∧ b.edge[i].rise = false) ∧
  (∀ j : Fin 3, b.env[j].attack = none ∧ b.env[j].decay = none ∧ b.env[j].min = none ∧ b.env[j].max = none ∧
    b.env[j].stage = .idle ∧ b.env[j].elapsed = 0) ∧
  b.osc.wave = none ∧ b.osc.freq = none ∧ b.osc.amp = none ∧ b.osc.phase = 0 ∧
  b.noise.lfsr = 0xACE1 ∧ b.mix.mode = .observed

/-- 10_state.md R24, R28, R29, R35, R40, R41 and the canonical form of OUT, kept by every step from every state that meets them:
FS above 0, CNT below the threshold, RISE only with LEVEL, ELAPSED 0 in Idle, the phase in `[0, 1)`, the noise register not zero.
The form of OUT is the model's choice (log entry 10). -/
def Obligations.EveryStepKeepsTheInvariant : Prop :=
  ∀ s t : State, Inv s → step s = .next t → Inv t

/-- The invariant holds at reset, whatever the open DEBOUNCE_WINDOW. -/
def Obligations.ResetMeetsTheInvariant : Prop :=
  Inv State.reset

/-- 20_memory.md R60 and 10_state.md R20, the frame over every operation: OUT, the issuer, the reset line and the parameters
DEBOUNCE_WINDOW and WAVE are untouched; a register outside the named instance of the operation's unit is untouched, but for the fault record. -/
def Obligations.OperationsTouchOnlyTheirInstance : Prop :=
  ∀ (s t : State) (i : Instr), exec i s = .next t →
    (∀ slot, t.out.read slot = s.out.read slot) ∧ t.out = s.out ∧ t.issuer = s.issuer ∧ t.resets = s.resets ∧
    t.window = s.window ∧ t.shape = s.shape ∧
    (∀ k : Fin 4, (i.unit ≠ .edge ∨ i.inst.toNat ≠ k.val) → t.block.edge[k] = s.block.edge[k]) ∧
    (∀ j : Fin 3, (i.unit ≠ .env ∨ i.inst.toNat ≠ j.val) → t.block.env[j] = s.block.env[j]) ∧
    (i.unit ≠ .osc → t.block.osc = s.block.osc) ∧ (i.unit ≠ .noise → t.block.noise = s.block.noise) ∧
    (i.unit ≠ .mix → t.block.mix = s.block.mix) ∧ (i.unit ≠ .sys → t.block.sys.fs = s.block.sys.fs)

/-- 20_memory.md R66: SYS.STATUS and MIX.PROCESS "change nothing and are idempotent": executed twice they answer the same, and
no register changes, faults apart. -/
def Obligations.StatusAndMixAreIdempotent : Prop :=
  ∀ (s : State), Safe s →
    (∃ t, exec (.sysStatus 0) s = .next t ∧ t.block = s.block ∧ exec (.sysStatus 0) t = .next t) ∧
    ∀ click bass snare noise env : NUM,
      ∃ t, exec (.mixProcess 0 click bass snare noise env) s = .next t ∧ t.block = s.block ∧
        exec (.mixProcess 0 click bass snare noise env) t = .next t

/-- 45_system_and_sequencer.md R193: "operations on different instances commute". Two operations of different instances, neither
of SYS, that complete without a fault leave the same registers in either order, and each answers the same. -/
def Obligations.OperationsOnDifferentInstancesCommute : Prop :=
  ∀ (s t u : State) (i k : Instr), i.unit ≠ .sys → k.unit ≠ .sys → (i.unit ≠ k.unit ∨ i.inst ≠ k.inst) →
    exec i s = .next t → Safe t → exec k t = .next u → Safe u →
    ∃ t' u', exec k s = .next t' ∧ exec i t' = .next u' ∧ u'.block = u.block ∧ t'.resp = u.resp ∧ u'.resp = t.resp

/-! ### Initialisation and RUNBLOCK -/

/-- 70_reset_and_hazards.md R242: the listed writes configure a block that is not halted, for any sample rate above 0, and leave it
without a fault: FS, the four edge detectors, WAVE, and every envelope's ATTACK, DECAY, MIN and MAX in the places ENV.INIT gives
them (30_encoding.md R92); every other register is as it was. -/
def Obligations.InitialisationConfiguresTheBlock : Prop :=
  ∀ (s : State) (fs : NUM) (blockSize : Nat) (e0 e1 e2 : EnvParams) (w : Waveform), Safe s → 0 < fs →
    ∃ t, execAll (initialisation fs blockSize e0 e1 e2 w) s = .next t ∧ Safe t ∧ Configured t.block ∧
      t.block.sys.fs = some fs ∧ t.block.osc = { s.block.osc with wave := some w } ∧
      (∀ i : Fin 4, t.block.edge[i] = ⟨some (fs / blockSize), false, 0, false⟩) ∧
      (∀ j : Fin 3, let e := #v[e0, e1, e2][j]
        t.block.env[j] = { s.block.env[j] with
          attack := some e.attack, decay := some e.decay, min := some e.min, max := some e.max }) ∧
      t.block.noise = s.block.noise ∧ t.block.mix = s.block.mix

/-- 45_system_and_sequencer.md R193 and R192, the part before the sample loop: from a configured block fourteen steps debounce and
query every pin, restart the envelopes of the voices whose pin rose, and set the two strobes; the sample loop is next. That
the expansion takes one step to begin and one an action is the model's choice (log entry 13), and so is an OUT with no slot
written at its start, which says only that the host's values are unknown (log entry 10). -/
def Obligations.RunBlockDebouncesThenTriggers : Prop :=
  ∀ (s : State) (pins : Vector Bool 4) (samples : List (NUM × NUM)) (rest : List Item), Safe s → Configured s.block →
    s.resets = [] → s.issuer.block = [] → s.issuer.program = .runBlock pins samples :: rest → samples ≠ [] →
    ∃ (t : State) (e : Fin 4 → EdgeRegs),
      (∀ i : Fin 4, ∃ rate, s.block.edge[i].rate = some rate ∧
        e i = s.block.edge[i].debounce pins[i] (threshold s.window rate)) ∧
      Host.Core.run Sys2Proof.core 14 s = .next t ∧ Safe t ∧
      (∀ i : Fin 4, t.block.edge[i] = { e i with rise := false }) ∧
      t.block.env[0] = (if (e 0).rise then { s.block.env[0] with stage := .attack, elapsed := 0 } else s.block.env[0]) ∧
      t.block.env[1] = (if (e 0).rise then { s.block.env[1] with stage := .attack, elapsed := 0 } else s.block.env[1]) ∧
      t.block.env[2] = (if (e 3).rise then { s.block.env[2] with stage := .attack, elapsed := 0 } else s.block.env[2]) ∧
      t.issuer.trigBass = (e 1).rise ∧ t.issuer.trigSnare = (e 2).rise ∧
      t.issuer.program = rest ∧ t.issuer.block = sampleLoops 0 samples ∧
      t.out = ⟨2 * samples.length, []⟩

/-- 45_system_and_sequencer.md R193, one sample iteration: ten steps evaluate each envelope once, feed frequency and amplitude, process
oscillator and noise once, mix, and write the frame of sample `k`, slot `2k` left and `2k + 1` right (20_memory.md R62). The
shape is whichever the parameter WAVE selects (42_oscillator.md R150); a step an action is the model's choice (log entry 13). -/
def Obligations.SampleLoopWritesOneFrame : Prop :=
  ∀ (s : State) (k : Nat) (bass snare : NUM) (rest : List Action) (fs : NUM) (w : Waveform)
    (attack decay lo hi : Fin 3 → NUM), Safe s → s.resets = [] → s.out.wf → 2 * k + 1 < s.out.size →
    s.issuer.block = sampleLoop k bass snare ++ rest →
    s.block.sys.fs = some fs → 0 < fs → s.block.osc.wave = some w →
    (∀ j : Fin 3, s.block.env[j].attack = some (attack j) ∧ s.block.env[j].decay = some (decay j) ∧
      s.block.env[j].min = some (lo j) ∧ s.block.env[j].max = some (hi j)) →
    let env := fun j : Fin 3 => s.block.env[j].process (attack j * fs) (decay j * fs) (lo j) (hi j)
    let inc := (env 0).2 / fs
    let phase := frac (s.block.osc.phase + inc)
    let lfsr := lfsrStep^[16] s.block.noise.lfsr
    let out := mixOut s.block.mix.mode ((env 1).2 * waveOf s.shape w phase inc) bass snare (noiseSample lfsr) (env 2).2
    ∃ t, Host.Core.run Sys2Proof.core 10 s = .next t ∧ Safe t ∧
      t.block = { s.block with
        env := #v[(env 0).1, (env 1).1, (env 2).1]
        osc := ⟨some w, some (env 0).2, some (env 1).2, phase⟩
        noise := ⟨lfsr⟩ } ∧
      t.out.size = s.out.size ∧ t.issuer.block = rest ∧ t.issuer.program = s.issuer.program ∧
      ∀ slot, t.out.read slot = if slot = 2 * k ∨ slot = 2 * k + 1 then some out else s.out.read slot

/-- 45_system_and_sequencer.md R193, R194 and 20_memory.md R65: from a configured block that is not halted, RUNBLOCK runs to its end
without a fault and writes every slot of OUT, left and right alike; the noise generator advances by exactly BLOCK_SIZE samples.
The count of steps is the model's choice (log entry 13). -/
def Obligations.RunBlockWritesEverySlot : Prop :=
  ∀ (s : State) (pins : Vector Bool 4) (samples : List (NUM × NUM)) (rest : List Item), Safe s → Configured s.block →
    s.resets = [] → s.issuer.block = [] → s.issuer.program = .runBlock pins samples :: rest → samples ≠ [] →
    ∃ t, Host.Core.run Sys2Proof.core (14 + 10 * samples.length) s = .next t ∧ Safe t ∧ Configured t.block ∧
      t.issuer.block = [] ∧ t.issuer.program = rest ∧ t.out.size = 2 * samples.length ∧
      (∀ k, k < samples.length → ∃ v, t.out.read (2 * k) = some v ∧ t.out.read (2 * k + 1) = some v) ∧
      t.block.noise.lfsr = lfsrStep^[16 * samples.length] s.block.noise.lfsr

/-- 45_system_and_sequencer.md R193: "If a command faults, RUNBLOCK stops there; the slots not yet written keep whatever the host
left in them": whichever line of the expansion it is, with an `IF`, named operands or a `->` or without. Nothing of the RUNBLOCK is
left to issue (that the rest of the expansion is dropped is log entry 8), OUT is as it was, and of the block only the record is
written. -/
def Obligations.RunBlockStopsAtAFault : Prop :=
  ∀ (s t : State) (l : Line) (rest : List Action), s.resets = [] → Safe s →
    s.issuer.block = .issue l :: rest → step s = .next t → t.block.sys.fault.isSome →
    t.issuer.block = [] ∧ t.out = s.out ∧ t.issuer.program = s.issuer.program ∧
    t.issuer.trigBass = s.issuer.trigBass ∧ t.issuer.trigSnare = s.issuer.trigSnare ∧
    ∃ r : FaultRecord, r.cw = l.cw ∧ t.block = { s.block with sys := { s.block.sys with fault := some r } }
end

