-- ==== Sys2Proof/Laws/Decode.lean ====
section
/-! SUPPORT. The fields of a packed word, and the codes of the immediates read back. -/

namespace Sys2Proof

@[simp] theorem fieldUnit_packWord (u o i f : Nibble) : fieldUnit (packWord u o i f) = u := by
  apply BitVec.eq_of_getLsbD_eq
  intro k hk
  have : k = 0 ∨ k = 1 ∨ k = 2 ∨ k = 3 := by omega
  rcases this with rfl | rfl | rfl | rfl <;> simp [fieldUnit, packWord]

@[simp] theorem fieldOp_packWord (u o i f : Nibble) : fieldOp (packWord u o i f) = o := by
  apply BitVec.eq_of_getLsbD_eq
  intro k hk
  have : k = 0 ∨ k = 1 ∨ k = 2 ∨ k = 3 := by omega
  rcases this with rfl | rfl | rfl | rfl <;> simp [fieldOp, packWord]

@[simp] theorem fieldInst_packWord (u o i f : Nibble) : fieldInst (packWord u o i f) = i := by
  apply BitVec.eq_of_getLsbD_eq
  intro k hk
  have : k = 0 ∨ k = 1 ∨ k = 2 ∨ k = 3 := by omega
  rcases this with rfl | rfl | rfl | rfl <;> simp [fieldInst, packWord]

@[simp] theorem fieldImm_packWord (u o i f : Nibble) : fieldImm (packWord u o i f) = f := by
  apply BitVec.eq_of_getLsbD_eq
  intro k hk
  have : k = 0 ∨ k = 1 ∨ k = 2 ∨ k = 3 := by omega
  rcases this with rfl | rfl | rfl | rfl <;> simp [fieldImm, packWord]

/-- A word is its four fields. -/
theorem packWord_fields (cw : Word) : packWord (fieldUnit cw) (fieldOp cw) (fieldInst cw) (fieldImm cw) = cw := by
  apply BitVec.eq_of_getLsbD_eq
  intro k hk
  have h : k = 0 ∨ k = 1 ∨ k = 2 ∨ k = 3 ∨ k = 4 ∨ k = 5 ∨ k = 6 ∨ k = 7 ∨ k = 8 ∨ k = 9 ∨ k = 10 ∨ k = 11 ∨
      k = 12 ∨ k = 13 ∨ k = 14 ∨ k = 15 := by omega
  rcases h with rfl | rfl | rfl | rfl | rfl | rfl | rfl | rfl | rfl | rfl | rfl | rfl | rfl | rfl | rfl | rfl <;>
    simp [fieldUnit, fieldOp, fieldInst, fieldImm, packWord]

@[simp] theorem Waveform.ofCode_code (w : Waveform) : Waveform.ofCode w.code = some w := by
  cases w <;> rfl

@[simp] theorem MixMode.ofCode_code (m : MixMode) : MixMode.ofCode m.code = some m := by
  cases m <;> rfl

@[simp] theorem rawOfCode_rawCode (raw : Bool) : rawOfCode (rawCode raw) = some raw := by
  cases raw <;> rfl

theorem Waveform.code_of_ofCode {fld : Nibble} {w : Waveform} (h : Waveform.ofCode fld = some w) : w.code = fld := by
  revert fld w
  decide

theorem MixMode.code_of_ofCode {fld : Nibble} {m : MixMode} (h : MixMode.ofCode fld = some m) : m.code = fld := by
  revert fld m
  decide

theorem rawCode_of_rawOfCode {fld : Nibble} {raw : Bool} (h : rawOfCode fld = some raw) : rawCode raw = fld := by
  revert fld raw
  decide

/-- A packed word with mask `0xFF0F`, by its fields. -/
theorem packWord_and_FF0F (u o i f : Nibble) : packWord u o i f &&& 0xFF0F = packWord u o 0 f := by
  apply BitVec.eq_of_getLsbD_eq
  intro k hk
  have h : k = 0 ∨ k = 1 ∨ k = 2 ∨ k = 3 ∨ k = 4 ∨ k = 5 ∨ k = 6 ∨ k = 7 ∨ k = 8 ∨ k = 9 ∨ k = 10 ∨ k = 11 ∨
      k = 12 ∨ k = 13 ∨ k = 14 ∨ k = 15 := by omega
  rcases h with rfl | rfl | rfl | rfl | rfl | rfl | rfl | rfl | rfl | rfl | rfl | rfl | rfl | rfl | rfl | rfl <;>
    simp [packWord]

/-- INST stands at bits 7 to 4: `base | (i << 4)`, as the operations' own rules write their words. -/
theorem packWord_inst (u o i f : Nibble) : packWord u o i f = packWord u o 0 f ||| (i.setWidth 16 <<< 4) := by
  simp only [packWord]
  ac_rfl

end Sys2Proof
end

