-- ==== Sys2Proof/Laws/State.lean ====
section
/-! SUPPORT. One lemma per field per update, each true by `rfl`, so that no proof unfolds a record update. -/

namespace Sys2Proof.Machine

/-! ### Answering and ignoring -/

@[simp] theorem State.answer_block (s : State) (r : Response) : (s.answer r).block = s.block := rfl
@[simp] theorem State.answer_resp (s : State) (r : Response) : (s.answer r).resp = some r := rfl
@[simp] theorem State.answer_out (s : State) (r : Response) : (s.answer r).out = s.out := rfl
@[simp] theorem State.answer_issuer (s : State) (r : Response) : (s.answer r).issuer = s.issuer := rfl
@[simp] theorem State.answer_resets (s : State) (r : Response) : (s.answer r).resets = s.resets := rfl
@[simp] theorem State.answer_window (s : State) (r : Response) : (s.answer r).window = s.window := rfl
@[simp] theorem State.answer_shape (s : State) (r : Response) : (s.answer r).shape = s.shape := rfl

@[simp] theorem State.ignored_block (s : State) : s.ignored.block = s.block := rfl
@[simp] theorem State.ignored_resp (s : State) : s.ignored.resp = none := rfl
@[simp] theorem State.ignored_out (s : State) : s.ignored.out = s.out := rfl
@[simp] theorem State.ignored_issuer (s : State) : s.ignored.issuer = s.issuer := rfl
@[simp] theorem State.ignored_resets (s : State) : s.ignored.resets = s.resets := rfl
@[simp] theorem State.ignored_window (s : State) : s.ignored.window = s.window := rfl
@[simp] theorem State.ignored_shape (s : State) : s.ignored.shape = s.shape := rfl

/-! ### Raising a fault -/

@[simp] theorem State.raise_sys_fs (s : State) (c : FaultCause) (w : Word) :
    (s.raise c w).block.sys.fs = s.block.sys.fs := rfl
@[simp] theorem State.raise_edge (s : State) (c : FaultCause) (w : Word) :
    (s.raise c w).block.edge = s.block.edge := rfl
@[simp] theorem State.raise_env (s : State) (c : FaultCause) (w : Word) : (s.raise c w).block.env = s.block.env := rfl
@[simp] theorem State.raise_osc (s : State) (c : FaultCause) (w : Word) : (s.raise c w).block.osc = s.block.osc := rfl
@[simp] theorem State.raise_noise (s : State) (c : FaultCause) (w : Word) :
    (s.raise c w).block.noise = s.block.noise := rfl
@[simp] theorem State.raise_mix (s : State) (c : FaultCause) (w : Word) : (s.raise c w).block.mix = s.block.mix := rfl
@[simp] theorem State.raise_fault (s : State) (c : FaultCause) (w : Word) :
    (s.raise c w).block.sys.fault = some ⟨c, w⟩ := rfl
@[simp] theorem State.raise_resp (s : State) (c : FaultCause) (w : Word) : (s.raise c w).resp = none := rfl
@[simp] theorem State.raise_out (s : State) (c : FaultCause) (w : Word) : (s.raise c w).out = s.out := rfl
@[simp] theorem State.raise_issuer (s : State) (c : FaultCause) (w : Word) : (s.raise c w).issuer = s.issuer := rfl
@[simp] theorem State.raise_resets (s : State) (c : FaultCause) (w : Word) : (s.raise c w).resets = s.resets := rfl
@[simp] theorem State.raise_window (s : State) (c : FaultCause) (w : Word) : (s.raise c w).window = s.window := rfl
@[simp] theorem State.raise_shape (s : State) (c : FaultCause) (w : Word) : (s.raise c w).shape = s.shape := rfl

/-! ### The reset event -/

@[simp] theorem State.resetBlock_block (s : State) (l : List Nat) : (s.resetBlock l).block = Block.reset := rfl
@[simp] theorem State.resetBlock_resp (s : State) (l : List Nat) : (s.resetBlock l).resp = none := rfl
@[simp] theorem State.resetBlock_out (s : State) (l : List Nat) : (s.resetBlock l).out = s.out := rfl
@[simp] theorem State.resetBlock_issuer (s : State) (l : List Nat) : (s.resetBlock l).issuer = s.issuer := rfl
@[simp] theorem State.resetBlock_resets (s : State) (l : List Nat) : (s.resetBlock l).resets = l := rfl
@[simp] theorem State.resetBlock_window (s : State) (l : List Nat) : (s.resetBlock l).window = s.window := rfl
@[simp] theorem State.resetBlock_shape (s : State) (l : List Nat) : (s.resetBlock l).shape = s.shape := rfl

/-! ### One instance's registers -/

@[simp] theorem Block.setEdge_sys (b : Block) (i : Fin nEdge) (e : EdgeRegs) : (b.setEdge i e).sys = b.sys := rfl
@[simp] theorem Block.setEdge_env (b : Block) (i : Fin nEdge) (e : EdgeRegs) : (b.setEdge i e).env = b.env := rfl
@[simp] theorem Block.setEdge_osc (b : Block) (i : Fin nEdge) (e : EdgeRegs) : (b.setEdge i e).osc = b.osc := rfl
@[simp] theorem Block.setEdge_noise (b : Block) (i : Fin nEdge) (e : EdgeRegs) :
    (b.setEdge i e).noise = b.noise := rfl
@[simp] theorem Block.setEdge_mix (b : Block) (i : Fin nEdge) (e : EdgeRegs) : (b.setEdge i e).mix = b.mix := rfl
@[simp] theorem Block.setEdge_edge (b : Block) (i : Fin nEdge) (e : EdgeRegs) :
    (b.setEdge i e).edge = b.edge.set i e := rfl

@[simp] theorem Block.setEnv_sys (b : Block) (j : Fin nEnv) (e : EnvRegs) : (b.setEnv j e).sys = b.sys := rfl
@[simp] theorem Block.setEnv_edge (b : Block) (j : Fin nEnv) (e : EnvRegs) : (b.setEnv j e).edge = b.edge := rfl
@[simp] theorem Block.setEnv_osc (b : Block) (j : Fin nEnv) (e : EnvRegs) : (b.setEnv j e).osc = b.osc := rfl
@[simp] theorem Block.setEnv_noise (b : Block) (j : Fin nEnv) (e : EnvRegs) : (b.setEnv j e).noise = b.noise := rfl
@[simp] theorem Block.setEnv_mix (b : Block) (j : Fin nEnv) (e : EnvRegs) : (b.setEnv j e).mix = b.mix := rfl
@[simp] theorem Block.setEnv_env (b : Block) (j : Fin nEnv) (e : EnvRegs) : (b.setEnv j e).env = b.env.set j e := rfl

/-! ### The issuer -/

@[simp] theorem State.endLine_block (s : State) (l : Line) : (s.endLine l).block = s.block := rfl
@[simp] theorem State.endLine_resp (s : State) (l : Line) : (s.endLine l).resp = s.resp := rfl
@[simp] theorem State.endLine_out (s : State) (l : Line) : (s.endLine l).out = s.out := rfl
@[simp] theorem State.endLine_resets (s : State) (l : Line) : (s.endLine l).resets = s.resets := rfl
@[simp] theorem State.endLine_window (s : State) (l : Line) : (s.endLine l).window = s.window := rfl
@[simp] theorem State.endLine_shape (s : State) (l : Line) : (s.endLine l).shape = s.shape := rfl
@[simp] theorem State.endLine_issuer_program (s : State) (l : Line) :
    (s.endLine l).issuer.program = s.issuer.program := rfl
@[simp] theorem State.endLine_issuer_trigBass (s : State) (l : Line) :
    (s.endLine l).issuer.trigBass = s.issuer.trigBass := rfl
@[simp] theorem State.endLine_issuer_trigSnare (s : State) (l : Line) :
    (s.endLine l).issuer.trigSnare = s.issuer.trigSnare := rfl
@[simp] theorem State.endLine_issuer_block (s : State) (l : Line) :
    (s.endLine l).issuer.block = if s.block.halted then [] else s.issuer.block := rfl

@[simp] theorem State.beginBlock_block (s : State) (p : Vector Bool nEdge) (q : List (NUM × NUM)) (r : List Item) :
    (s.beginBlock p q r).block = s.block := rfl
@[simp] theorem State.beginBlock_resp (s : State) (p : Vector Bool nEdge) (q : List (NUM × NUM)) (r : List Item) :
    (s.beginBlock p q r).resp = s.resp := rfl
@[simp] theorem State.beginBlock_resets (s : State) (p : Vector Bool nEdge) (q : List (NUM × NUM)) (r : List Item) :
    (s.beginBlock p q r).resets = s.resets := rfl
@[simp] theorem State.beginBlock_window (s : State) (p : Vector Bool nEdge) (q : List (NUM × NUM)) (r : List Item) :
    (s.beginBlock p q r).window = s.window := rfl
@[simp] theorem State.beginBlock_shape (s : State) (p : Vector Bool nEdge) (q : List (NUM × NUM)) (r : List Item) :
    (s.beginBlock p q r).shape = s.shape := rfl
@[simp] theorem State.beginBlock_out (s : State) (p : Vector Bool nEdge) (q : List (NUM × NUM)) (r : List Item) :
    (s.beginBlock p q r).out = Memory.handedOver q.length := rfl
@[simp] theorem State.beginBlock_issuer_names (s : State) (p : Vector Bool nEdge) (q : List (NUM × NUM)) (r : List Item) :
    (s.beginBlock p q r).issuer.names = s.issuer.names := rfl
@[simp] theorem State.beginBlock_issuer_trigBass (s : State) (p : Vector Bool nEdge) (q : List (NUM × NUM)) (r : List Item) :
    (s.beginBlock p q r).issuer.trigBass = s.issuer.trigBass := rfl
@[simp] theorem State.beginBlock_issuer_trigSnare (s : State) (p : Vector Bool nEdge) (q : List (NUM × NUM)) (r : List Item) :
    (s.beginBlock p q r).issuer.trigSnare = s.issuer.trigSnare := rfl
@[simp] theorem State.beginBlock_issuer_program (s : State) (p : Vector Bool nEdge) (q : List (NUM × NUM)) (r : List Item) :
    (s.beginBlock p q r).issuer.program = r := rfl
@[simp] theorem State.beginBlock_issuer_block (s : State) (p : Vector Bool nEdge) (q : List (NUM × NUM)) (r : List Item) :
    (s.beginBlock p q r).issuer.block = runBlockActions p q := rfl

@[simp] theorem State.setStrobe_block (s : State) (v : AnalogVoice) (b : Bool) : (s.setStrobe v b).block = s.block := by
  cases v <;> rfl
@[simp] theorem State.setStrobe_resp (s : State) (v : AnalogVoice) (b : Bool) : (s.setStrobe v b).resp = s.resp := by
  cases v <;> rfl
@[simp] theorem State.setStrobe_out (s : State) (v : AnalogVoice) (b : Bool) : (s.setStrobe v b).out = s.out := by
  cases v <;> rfl
@[simp] theorem State.setStrobe_resets (s : State) (v : AnalogVoice) (b : Bool) : (s.setStrobe v b).resets = s.resets := by
  cases v <;> rfl
@[simp] theorem State.setStrobe_window (s : State) (v : AnalogVoice) (b : Bool) : (s.setStrobe v b).window = s.window := by
  cases v <;> rfl
@[simp] theorem State.setStrobe_shape (s : State) (v : AnalogVoice) (b : Bool) : (s.setStrobe v b).shape = s.shape := by
  cases v <;> rfl
@[simp] theorem State.setStrobe_issuer_program (s : State) (v : AnalogVoice) (b : Bool) :
    (s.setStrobe v b).issuer.program = s.issuer.program := by
  cases v <;> rfl
@[simp] theorem State.setStrobe_issuer_block (s : State) (v : AnalogVoice) (b : Bool) :
    (s.setStrobe v b).issuer.block = s.issuer.block := by
  cases v <;> rfl
@[simp] theorem State.setStrobe_issuer_names (s : State) (v : AnalogVoice) (b : Bool) :
    (s.setStrobe v b).issuer.names = s.issuer.names := by
  cases v <;> rfl

/-! ### The host's word -/

@[simp] theorem State.withCommand_block (s : State) (c : Command) : (s.withCommand c).block = s.block := rfl
@[simp] theorem State.withCommand_resp (s : State) (c : Command) : (s.withCommand c).resp = s.resp := rfl
@[simp] theorem State.withCommand_out (s : State) (c : Command) : (s.withCommand c).out = s.out := rfl
@[simp] theorem State.withCommand_window (s : State) (c : Command) : (s.withCommand c).window = s.window := rfl
@[simp] theorem State.withCommand_shape (s : State) (c : Command) : (s.withCommand c).shape = s.shape := rfl
@[simp] theorem State.withCommand_resets (s : State) (c : Command) : (s.withCommand c).resets = [] := rfl
@[simp] theorem State.withCommand_issuer_program (s : State) (c : Command) :
    (s.withCommand c).issuer.program = s.issuer.program := rfl
@[simp] theorem State.withCommand_issuer_names (s : State) (c : Command) :
    (s.withCommand c).issuer.names = s.issuer.names := rfl
@[simp] theorem State.withCommand_issuer_trigBass (s : State) (c : Command) :
    (s.withCommand c).issuer.trigBass = s.issuer.trigBass := rfl
@[simp] theorem State.withCommand_issuer_trigSnare (s : State) (c : Command) :
    (s.withCommand c).issuer.trigSnare = s.issuer.trigSnare := rfl
@[simp] theorem State.withCommand_issuer_block (s : State) (c : Command) :
    (s.withCommand c).issuer.block = commandAction c :: s.issuer.block := rfl

end Sys2Proof.Machine
end

