-- ==== Sys2Proof/Laws/Ops.lean ====
section
/-! SUPPORT. What each shared operation can do, said once. -/

namespace Sys2Proof.Machine

/-! ### The faulted bit -/

@[simp] theorem halted_eq_false_iff (b : Block) : b.halted = false ↔ b.sys.fault = none := by
  simp [Block.halted, Block.faulted]

@[simp] theorem halted_eq_true_iff (b : Block) : b.halted = true ↔ b.sys.fault.isSome := by
  simp [Block.halted, Block.faulted]

/-! ### The checks every command passes -/

theorem check_halted {cw : Word} {inst : Nibble} {n : Nat} {s : State} {perform : Fin n → Result}
    (h : s.block.sys.fault.isSome) : check cw inst n s perform = .next s.ignored := by
  simp [check, h]

theorem check_missing {cw : Word} {inst : Nibble} {n : Nat} {s : State} {perform : Fin n → Result}
    (h : s.block.sys.fault = none) (hi : n ≤ inst.toNat) :
    check cw inst n s perform = .next (s.raise .badInstance cw) := by
  simp [check, h, Nat.not_lt.mpr hi]

theorem check_performs {cw : Word} {inst : Nibble} {n : Nat} {s : State} {perform : Fin n → Result}
    (h : s.block.sys.fault = none) (hi : inst.toNat < n) :
    check cw inst n s perform = perform ⟨inst.toNat, hi⟩ := by
  simp [check, h, hi]

/-- Everything the checks can do: the command is ignored, it raises BadInstance, or the operation is performed on the
instance it names. -/
theorem check_cases {cw : Word} {inst : Nibble} {n : Nat} {s : State} {perform : Fin n → Result} {r : Result}
    (h : check cw inst n s perform = r) :
    (s.block.sys.fault.isSome ∧ r = .next s.ignored) ∨
    (s.block.sys.fault = none ∧ n ≤ inst.toNat ∧ r = .next (s.raise .badInstance cw)) ∨
    (s.block.sys.fault = none ∧ ∃ hi : inst.toNat < n, r = perform ⟨inst.toNat, hi⟩) := by
  subst h
  cases hf : s.block.sys.fault with
  | some c => exact .inl ⟨rfl, check_halted (by simp [hf])⟩
  | none =>
    rcases Nat.lt_or_ge inst.toNat n with hi | hi
    · exact .inr (.inr ⟨rfl, hi, check_performs hf hi⟩)
    · exact .inr (.inl ⟨rfl, hi, check_missing hf hi⟩)

/-! ### One instance's registers -/

theorem edge_setEdge (b : Block) (i k : Fin nEdge) (e : EdgeRegs) :
    (b.setEdge i e).edge[k] = if i = k then e else b.edge[k] := by
  simp [Vector.getElem_set, Fin.ext_iff]

theorem env_setEnv (b : Block) (j k : Fin nEnv) (e : EnvRegs) :
    (b.setEnv j e).env[k] = if j = k then e else b.env[k] := by
  simp [Vector.getElem_set, Fin.ext_iff]

/-! ### Rounding and the threshold -/

theorem frac_eq_fract (q : NUM) : frac q = Int.fract q := by
  rfl

theorem frac_nonneg (q : NUM) : 0 ≤ frac q := frac_eq_fract q ▸ Int.fract_nonneg q

theorem frac_lt_one (q : NUM) : frac q < 1 := frac_eq_fract q ▸ Int.fract_lt_one q

theorem one_le_threshold (window rate : NUM) : 1 ≤ threshold window rate := by
  unfold threshold
  omega

/-! ### The shape functions -/

@[simp] theorem waveOf_default : waveOf .default = wave := rfl
@[simp] theorem waveOf_other (k : Nat) : waveOf (.other k) = otherWave k := rfl

theorem abs_cutToOne_le (v : NUM) : |cutToOne v| ≤ 1 := by
  unfold cutToOne
  split
  · simp
  · split
    · simp
    · exact abs_le.mpr ⟨by linarith, by linarith⟩

/-! ### Lookup by key -/

theorem lookup_cons_if {α β : Type} [DecidableEq α] (j m : α) (w : β) (rest : List (α × β)) :
    List.lookup j ((m, w) :: rest) = if j = m then some w else rest.lookup j := by
  by_cases h : j = m
  · simp [List.lookup, h]
  · simp [List.lookup, h, beq_false_of_ne h]

/-! ### The output buffer -/

theorem insertCell_mem {k : Nat} {v : NUM} {cells : List (Nat × NUM)} {p : Nat × NUM}
    (h : p ∈ insertCell k v cells) : p = (k, v) ∨ p ∈ cells := by
  induction cells with
  | nil => simpa [insertCell] using h
  | cons head rest ih =>
    obtain ⟨j, w⟩ := head
    simp only [insertCell] at h
    split at h
    · simpa using h
    · split at h
      · rcases List.mem_cons.mp h with h | h
        · exact .inl h
        · exact .inr (List.mem_cons_of_mem _ h)
      · rcases List.mem_cons.mp h with h | h
        · exact .inr (h ▸ List.mem_cons_self ..)
        · exact (ih h).imp_right (List.mem_cons_of_mem _)

theorem insertCell_pairwise (k : Nat) (v : NUM) {cells : List (Nat × NUM)}
    (h : cells.Pairwise (fun p q => p.1 < q.1)) : (insertCell k v cells).Pairwise (fun p q => p.1 < q.1) := by
  induction cells with
  | nil => simp [insertCell]
  | cons head rest ih =>
    obtain ⟨j, w⟩ := head
    obtain ⟨hj, hrest⟩ := List.pairwise_cons.mp h
    simp only [insertCell]
    split
    · rename_i hkj
      refine List.pairwise_cons.mpr ⟨fun p hp => ?_, h⟩
      rcases List.mem_cons.mp hp with rfl | hp
      · exact hkj
      · exact hkj.trans (hj p hp)
    · split
      · rename_i heq
        exact List.pairwise_cons.mpr ⟨fun p hp => heq ▸ hj p hp, hrest⟩
      · refine List.pairwise_cons.mpr ⟨fun p hp => ?_, ih hrest⟩
        rcases insertCell_mem hp with rfl | hp
        · simp only
          omega
        · exact hj p hp

theorem lookup_insertCell (k : Nat) (v : NUM) (cells : List (Nat × NUM))
    (h : cells.Pairwise (fun p q => p.1 < q.1)) (j : Nat) :
    (insertCell k v cells).lookup j = if j = k then some v else cells.lookup j := by
  induction cells with
  | nil => simp [insertCell, lookup_cons_if]
  | cons head rest ih =>
    obtain ⟨m, w⟩ := head
    obtain ⟨hm, hrest⟩ := List.pairwise_cons.mp h
    simp only [insertCell]
    split
    · simp only [lookup_cons_if]
    · split
      · rename_i heq
        subst heq
        simp only [lookup_cons_if]
        split <;> rfl
      · simp only [lookup_cons_if, ih hrest]
        split
        · rw [if_neg (by omega)]
        · rfl

/-- Writing OUT keeps its canonical form. -/
theorem Memory.write_wf {m m' : Memory} {k : Nat} {v : NUM} (hm : m.wf) (h : m.write k v = some m') : m'.wf := by
  unfold Memory.write at h
  split at h
  · rename_i hk
    obtain rfl := Option.some.inj h
    refine ⟨insertCell_pairwise k v hm.1, fun p hp => ?_⟩
    rcases insertCell_mem hp with rfl | hp
    · exact hk
    · exact hm.2 p hp
  · cases h

/-- A buffer just handed over is in canonical form. -/
theorem Memory.handedOver_wf (blockSize : Nat) : (Memory.handedOver blockSize).wf := by
  simp [Memory.wf, Memory.handedOver]

theorem Memory.reset_wf : State.reset.out.wf := by
  simp [Memory.wf, State.reset]

/-- Everything a write of OUT can do. -/
theorem Memory.write_cases (m : Memory) (k : Nat) (v : NUM) :
    (k < m.size ∧ m.write k v = some { m with cells := insertCell k v m.cells }) ∨
    (m.size ≤ k ∧ m.write k v = none) := by
  rcases Nat.lt_or_ge k m.size with h | h
  · exact .inl ⟨h, by simp [Memory.write, h]⟩
  · exact .inr ⟨h, by simp [Memory.write, Nat.not_lt.mpr h]⟩

/-! ### Names -/

theorem lookup_bindName (name other : Name) (v : Value) (ns : Names) :
    (bindName name v ns).lookup other = if other = name then some v else ns.lookup other := by
  induction ns with
  | nil => simp [bindName, lookup_cons_if]
  | cons head rest ih =>
    obtain ⟨m, w⟩ := head
    simp only [bindName]
    split
    · rename_i hm
      subst hm
      simp only [lookup_cons_if]
      split <;> rfl
    · rename_i hm
      simp only [lookup_cons_if, ih]
      split
      · rename_i h
        rw [if_neg (h ▸ hm)]
      · rfl

/-! ### Sequencing -/

@[simp] theorem andThen_next (s : State) (f : State → Result) : andThen (.next s) f = f s := rfl
@[simp] theorem andThen_fault (e : Fault) (f : State → Result) : andThen (.fault e) f = .fault e := rfl
@[simp] theorem andThen_refused (e : Refusal) (f : State → Result) : andThen (.refused e) f = .refused e := rfl

theorem andThen_eq_next {r : Result} {f : State → Result} {t : State} (h : andThen r f = .next t) :
    ∃ s, r = .next s ∧ f s = .next t := by
  cases r with
  | next s => exact ⟨s, rfl, h⟩
  | fault e => cases h
  | refused e => cases h

end Sys2Proof.Machine
end

