-- ==== Sys2Proof/Laws/Exec.lean ====
section
/-! SUPPORT. Everything an operation can do, said once: what it does on a halted block, what it does to a missing instance, and
its next state otherwise. Later proofs cite these and do not unfold a meaning. -/

namespace Sys2Proof.Machine

/-- SYS.STATUS 0 is answered by every block, halted or not. -/
theorem exec_status (s : State) : exec (.sysStatus 0) s = .next (s.answer s.block.statusResponse) := by
  cases hs : s.block.sys.fault with
  | none => rw [exec, execSysStatus, if_neg (by simp [hs]), check_performs hs (by decide)]
  | some r => rw [exec, execSysStatus, if_pos (by simp [hs])]

/-- A halted block ignores every other operation. -/
theorem exec_ignored {s : State} (hs : s.block.sys.fault.isSome) {i : Instr} (hi : i ≠ .sysStatus 0) :
    exec i s = .next s.ignored := by
  cases i
  case sysStatus inst => rw [exec, execSysStatus, if_neg (by rintro ⟨-, rfl⟩; exact hi rfl), check_halted hs]
  all_goals simp only [exec, execSysSetfs, execEdgeInit, execEdgeDebounce, execEdgeRising, execEnvSetattack,
    execEnvSetdecay, execEnvSetmin, execEnvSetmax, envConfigure, execEnvTrigger, execEnvProcess, execOscSetwave,
    execOscSetfreq, execOscSetamp, execOscProcess, oscProcessWith, execNoiseSeed, execNoiseProcess, execMixSetmode,
    execMixProcess, check_halted hs]

/-- An operation of a missing instance raises BadInstance with its own word. -/
theorem exec_missing {s : State} (hs : s.block.sys.fault = none) {i : Instr} (hi : i.unit.count ≤ i.inst.toNat) :
    exec i s = .next (s.raise .badInstance i.word) := by
  cases i
  case sysStatus inst =>
    rw [exec, execSysStatus, if_neg (by simp [hs])]
    exact check_missing hs hi
  all_goals
    simp only [exec, execSysSetfs, execEdgeInit, execEdgeDebounce, execEdgeRising, execEnvSetattack,
      execEnvSetdecay, execEnvSetmin, execEnvSetmax, envConfigure, execEnvTrigger, execEnvProcess, execOscSetwave,
      execOscSetfreq, execOscSetamp, execOscProcess, oscProcessWith, execNoiseSeed, execNoiseProcess, execMixSetmode,
      execMixProcess]
    exact check_missing hs hi

/-- The registers an operation needs and finds unwritten (60_exceptions.md R215). -/
def Unmet (i : Instr) (b : Block) : Prop :=
  match i with
  | .edgeDebounce inst _ => ∃ k : Fin nEdge, inst.toNat = k.val ∧ b.edge[k].rate = none
  | .envProcess inst => ∃ j : Fin nEnv, inst.toNat = j.val ∧ (b.sys.fs = none ∨ b.env[j].attack = none ∨
      b.env[j].decay = none ∨ b.env[j].min = none ∨ b.env[j].max = none)
  | .oscProcess _ => b.sys.fs = none ∨ b.osc.wave = none ∨ b.osc.freq = none ∨ b.osc.amp = none
  | _ => False

/-- The next state of an operation that completes: the block's registers after it and its answer. -/
def Completes (i : Instr) (s t : State) : Prop :=
  match i with
  | .sysStatus _ => t = s.answer s.block.statusResponse
  | .sysSetfs _ v => 0 < v ∧ t = State.answer { s with block := { s.block with sys := { s.block.sys with fs := some v } } } .empty
  | .edgeInit inst rate => ∃ k : Fin nEdge, inst.toNat = k.val ∧
      t = State.answer { s with block := s.block.setEdge k ⟨some rate, false, 0, false⟩ } .empty
  | .edgeDebounce inst raw => ∃ (k : Fin nEdge) (rate : NUM), inst.toNat = k.val ∧ s.block.edge[k].rate = some rate ∧
      t = State.answer { s with
        block := s.block.setEdge k (s.block.edge[k].debounce raw (threshold s.window rate)) } .empty
  | .edgeRising inst => ∃ k : Fin nEdge, inst.toNat = k.val ∧
      t = State.answer { s with block := s.block.setEdge k { s.block.edge[k] with rise := false } } (.bit s.block.edge[k].rise)
  | .envSetattack inst v => ∃ j : Fin nEnv, inst.toNat = j.val ∧
      t = State.answer { s with block := s.block.setEnv j { s.block.env[j] with attack := some v } } .empty
  | .envSetdecay inst v => ∃ j : Fin nEnv, inst.toNat = j.val ∧
      t = State.answer { s with block := s.block.setEnv j { s.block.env[j] with decay := some v } } .empty
  | .envSetmin inst v => ∃ j : Fin nEnv, inst.toNat = j.val ∧
      t = State.answer { s with block := s.block.setEnv j { s.block.env[j] with min := some v } } .empty
  | .envSetmax inst v => ∃ j : Fin nEnv, inst.toNat = j.val ∧
      t = State.answer { s with block := s.block.setEnv j { s.block.env[j] with max := some v } } .empty
  | .envTrigger inst => ∃ j : Fin nEnv, inst.toNat = j.val ∧
      t = State.answer { s with block := s.block.setEnv j { s.block.env[j] with stage := .attack, elapsed := 0 } } .empty
  | .envProcess inst => ∃ (j : Fin nEnv) (fs attack decay lo hi : NUM), inst.toNat = j.val ∧ s.block.sys.fs = some fs ∧
      s.block.env[j].attack = some attack ∧ s.block.env[j].decay = some decay ∧
      s.block.env[j].min = some lo ∧ s.block.env[j].max = some hi ∧
      let r := s.block.env[j].process (attack * fs) (decay * fs) lo hi
      t = State.answer { s with block := s.block.setEnv j r.1 } (.num r.2)
  | .oscSetwave _ w => t = State.answer { s with block := { s.block with osc := { s.block.osc with wave := some w } } } .empty
  | .oscSetfreq _ f => t = State.answer { s with block := { s.block with osc := { s.block.osc with freq := some f } } } .empty
  | .oscSetamp _ a => t = State.answer { s with block := { s.block with osc := { s.block.osc with amp := some a } } } .empty
  | .oscProcess _ => ∃ (fs freq amp : NUM) (w : Waveform), s.block.sys.fs = some fs ∧ s.block.osc.wave = some w ∧
      s.block.osc.freq = some freq ∧ s.block.osc.amp = some amp ∧
      let phase := frac (s.block.osc.phase + freq / fs)
      t = State.answer { s with block := { s.block with osc := { s.block.osc with phase := phase } } }
        (.num (amp * waveOf s.shape w phase (freq / fs)))
  | .noiseSeed _ seed => t = State.answer
      { s with block := { s.block with noise := ⟨if seed = 0 then Config.lfsrSeed else seed⟩ } } .empty
  | .noiseProcess _ =>
      let l := lfsrShift Config.lfsrSteps s.block.noise.lfsr
      t = State.answer { s with block := { s.block with noise := ⟨l⟩ } } (.num (noiseSample l))
  | .mixSetmode _ m => t = State.answer { s with block := { s.block with mix := ⟨m⟩ } } .empty
  | .mixProcess _ click bass snare noise env =>
      let out := mixOut s.block.mix.mode click bass snare noise env
      t = s.answer (.frame out out (activeCount click bass snare))

/-- On a block that is not halted, an operation of an existing instance raises BadConfig, raises Unconfigured, or completes. -/
theorem exec_performs {s : State} (hs : s.block.sys.fault = none) {i : Instr} (hi : i.inst.toNat < i.unit.count) :
    (∃ inst v, v ≤ 0 ∧ i = .sysSetfs inst v ∧ exec i s = .next (s.raise .badConfig i.word)) ∨
    (Unmet i s.block ∧ exec i s = .next (s.raise .unconfigured i.word)) ∨
    (¬ Unmet i s.block ∧ (∀ inst v, i = .sysSetfs inst v → 0 < v) ∧ ∃ t, exec i s = .next t ∧ Completes i s t) := by
  cases i
  case sysStatus inst =>
    refine .inr (.inr ⟨id, by simp, _, ?_, rfl⟩)
    rw [exec, execSysStatus, if_neg (by simp [hs])]
    exact check_performs hs hi
  case sysSetfs inst v =>
    change inst.toNat < nSys at hi
    rw [exec, execSysSetfs, check_performs hs hi]
    rcases le_or_gt v 0 with hv | hv
    · exact .inl ⟨inst, v, hv, rfl, by rw [if_pos hv]⟩
    · exact .inr (.inr ⟨id, by simpa using hv, _, by rw [if_neg (not_le.mpr hv)], hv, rfl⟩)
  case edgeDebounce inst raw =>
    change inst.toNat < nEdge at hi
    rw [exec, execEdgeDebounce, check_performs hs hi]
    cases hr : s.block.edge[(⟨inst.toNat, hi⟩ : Fin nEdge)].rate with
    | none => exact .inr (.inl ⟨⟨⟨inst.toNat, hi⟩, rfl, hr⟩, rfl⟩)
    | some rate =>
      refine .inr (.inr ⟨?_, by simp, _, rfl, ⟨inst.toNat, hi⟩, rate, rfl, hr, rfl⟩)
      rintro ⟨⟨k, hk⟩, hk', h⟩
      simp only at hk'
      subst hk'
      rw [hr] at h
      cases h
  case envProcess inst =>
    change inst.toNat < nEnv at hi
    rw [exec, execEnvProcess, check_performs hs hi]
    by_cases hc : Unmet (.envProcess inst) s.block
    · refine .inr (.inl ⟨hc, ?_⟩)
      obtain ⟨⟨j, hj⟩, hj', hc⟩ := hc
      simp only at hj'
      subst hj'
      simp only
      split
      · simp_all
      · rfl
    · have hn : ¬ _ := fun h => hc ⟨⟨inst.toNat, hi⟩, rfl, h⟩
      simp only [not_or, ← ne_eq, Option.ne_none_iff_exists'] at hn
      obtain ⟨⟨fs, h1⟩, ⟨a, h2⟩, ⟨d, h3⟩, ⟨lo, h4⟩, ⟨hi', h5⟩⟩ := hn
      exact .inr (.inr ⟨hc, by simp, _, by simp only [h1, h2, h3, h4, h5]; rfl, ⟨inst.toNat, hi⟩, fs, a, d, lo, hi', rfl, h1, h2,
        h3, h4, h5, rfl⟩)
  case oscProcess inst =>
    change inst.toNat < nOsc at hi
    rw [exec, execOscProcess, oscProcessWith, check_performs hs hi]
    by_cases hc : Unmet (.oscProcess inst) s.block
    · refine .inr (.inl ⟨hc, ?_⟩)
      simp only [Unmet] at hc
      split
      · simp_all
      · rfl
    · have hn := hc
      simp only [Unmet, not_or, ← ne_eq, Option.ne_none_iff_exists'] at hn
      obtain ⟨⟨fs, h1⟩, ⟨w, h2⟩, ⟨f, h3⟩, ⟨a, h4⟩⟩ := hn
      exact .inr (.inr ⟨hc, by simp, _, by simp only [h1, h2, h3, h4], fs, f, a, w, h1, h2, h3, h4, rfl⟩)
  case edgeInit inst rate =>
    change inst.toNat < nEdge at hi
    exact .inr (.inr ⟨id, by simp, _, by rw [exec, execEdgeInit, check_performs hs hi], ⟨inst.toNat, hi⟩, rfl, rfl⟩)
  case edgeRising inst =>
    change inst.toNat < nEdge at hi
    exact .inr (.inr ⟨id, by simp, _, by rw [exec, execEdgeRising, check_performs hs hi], ⟨inst.toNat, hi⟩, rfl, rfl⟩)
  case envSetattack inst v =>
    change inst.toNat < nEnv at hi
    exact .inr (.inr ⟨id, by simp, _, by rw [exec, execEnvSetattack, envConfigure, check_performs hs hi],
      ⟨inst.toNat, hi⟩, rfl, rfl⟩)
  case envSetdecay inst v =>
    change inst.toNat < nEnv at hi
    exact .inr (.inr ⟨id, by simp, _, by rw [exec, execEnvSetdecay, envConfigure, check_performs hs hi],
      ⟨inst.toNat, hi⟩, rfl, rfl⟩)
  case envSetmin inst v =>
    change inst.toNat < nEnv at hi
    exact .inr (.inr ⟨id, by simp, _, by rw [exec, execEnvSetmin, envConfigure, check_performs hs hi],
      ⟨inst.toNat, hi⟩, rfl, rfl⟩)
  case envSetmax inst v =>
    change inst.toNat < nEnv at hi
    exact .inr (.inr ⟨id, by simp, _, by rw [exec, execEnvSetmax, envConfigure, check_performs hs hi],
      ⟨inst.toNat, hi⟩, rfl, rfl⟩)
  case envTrigger inst =>
    change inst.toNat < nEnv at hi
    exact .inr (.inr ⟨id, by simp, _, by rw [exec, execEnvTrigger, check_performs hs hi], ⟨inst.toNat, hi⟩, rfl, rfl⟩)
  case oscSetwave inst w =>
    change inst.toNat < nOsc at hi
    exact .inr (.inr ⟨id, by simp, _, by rw [exec, execOscSetwave, check_performs hs hi], rfl⟩)
  case oscSetfreq inst f =>
    change inst.toNat < nOsc at hi
    exact .inr (.inr ⟨id, by simp, _, by rw [exec, execOscSetfreq, check_performs hs hi], rfl⟩)
  case oscSetamp inst a =>
    change inst.toNat < nOsc at hi
    exact .inr (.inr ⟨id, by simp, _, by rw [exec, execOscSetamp, check_performs hs hi], rfl⟩)
  case noiseSeed inst seed =>
    change inst.toNat < nNoise at hi
    exact .inr (.inr ⟨id, by simp, _, by rw [exec, execNoiseSeed, check_performs hs hi], rfl⟩)
  case noiseProcess inst =>
    change inst.toNat < nNoise at hi
    exact .inr (.inr ⟨id, by simp, _, by rw [exec, execNoiseProcess, check_performs hs hi], rfl⟩)
  case mixSetmode inst m =>
    change inst.toNat < nMix at hi
    exact .inr (.inr ⟨id, by simp, _, by rw [exec, execMixSetmode, check_performs hs hi], rfl⟩)
  case mixProcess inst click bass snare noise env =>
    change inst.toNat < nMix at hi
    exact .inr (.inr ⟨id, by simp, _, by rw [exec, execMixProcess, check_performs hs hi], rfl⟩)

/-- A completed operation records no fault and answers. -/
theorem Completes.answers {i : Instr} {s t : State} (h : Completes i s t) :
    t.block.sys.fault = s.block.sys.fault ∧ t.resp.isSome := by
  cases i <;> simp only [Completes] at h
  case sysSetfs => obtain ⟨-, rfl⟩ := h; exact ⟨rfl, rfl⟩
  case edgeDebounce => obtain ⟨_, _, -, -, rfl⟩ := h; exact ⟨rfl, rfl⟩
  case envProcess => obtain ⟨_, _, _, _, _, _, -, -, -, -, -, -, rfl⟩ := h; exact ⟨rfl, rfl⟩
  case oscProcess => obtain ⟨_, _, _, _, -, -, -, -, rfl⟩ := h; exact ⟨rfl, rfl⟩
  case sysStatus | oscSetwave | oscSetfreq | oscSetamp | noiseSeed | noiseProcess | mixSetmode | mixProcess =>
    subst h; exact ⟨rfl, rfl⟩
  all_goals (obtain ⟨_, -, rfl⟩ := h; exact ⟨rfl, rfl⟩)

/-- Everything an operation can do: it is ignored by a halted block, it raises a fault, or it completes. -/
theorem exec_inversion {i : Instr} {s t : State} (h : exec i s = .next t) :
    (s.block.sys.fault.isSome ∧ i ≠ .sysStatus 0 ∧ t = s.ignored) ∨
    (s.block.sys.fault.isSome ∧ i = .sysStatus 0 ∧ t = s.answer s.block.statusResponse) ∨
    (s.block.sys.fault = none ∧ ∃ cause, t = s.raise cause i.word) ∨
    (s.block.sys.fault = none ∧ i.inst.toNat < i.unit.count ∧ ¬ Unmet i s.block ∧ Completes i s t) := by
  cases hs : s.block.sys.fault with
  | some r =>
    by_cases hi : i = .sysStatus 0
    · subst hi
      rw [exec_status] at h
      exact .inr (.inl ⟨rfl, rfl, (Host.Outcome.next.inj h).symm⟩)
    · rw [exec_ignored (by simp [hs]) hi] at h
      exact .inl ⟨rfl, hi, (Host.Outcome.next.inj h).symm⟩
  | none =>
    rcases Nat.lt_or_ge i.inst.toNat i.unit.count with hi | hi
    · rcases exec_performs hs hi with ⟨_, _, -, -, e⟩ | ⟨-, e⟩ | ⟨hn, -, u, e, hc⟩
      · exact .inr (.inr (.inl ⟨rfl, _, (Host.Outcome.next.inj (e.symm.trans h)).symm⟩))
      · exact .inr (.inr (.inl ⟨rfl, _, (Host.Outcome.next.inj (e.symm.trans h)).symm⟩))
      · obtain rfl := Host.Outcome.next.inj (e.symm.trans h)
        exact .inr (.inr (.inr ⟨rfl, hi, hn, hc⟩))
    · have e := exec_missing hs hi
      exact .inr (.inr (.inl ⟨rfl, _, (Host.Outcome.next.inj (e.symm.trans h)).symm⟩))

end Sys2Proof.Machine
end

