-- ==== Sys2Proof/Laws/PerInstr.lean ====
section
/-! SUPPORT. Statements about every operation as syntax, one lemma per constructor: each operation's word is spelled by a row of
the opcode map, and that row's operand list is the operation's (30_encoding.md R83, R86). -/

namespace Sys2Proof.Laws.Spells

/-- A row of R83 spells the operation's word and has its operand list. -/
def Statement (i : Instr) : Prop :=
  ∃ r ∈ opcodeTable, r.spells i.word = true ∧ r.operands = i.operands.map Value.kind

/-- The row at position `k` of the map spells the word and has the operand list. -/
theorem of_row {i : Instr} (k : Nat) (hk : k < opcodeTable.length) (hs : opcodeTable[k].spells i.word = true)
    (ho : opcodeTable[k].operands = i.operands.map Value.kind) : Statement i :=
  ⟨opcodeTable[k], List.getElem_mem _, hs, ho⟩

/-- A word whose INST is masked off by `0xFF0F` spells a row exactly when its other fields do. -/
theorem spells_FF0F {m : String} {p : Word} {k : List Kind} {u o f : Nibble} (i : Nibble)
    (h : packWord u o 0 f = p) : OpRow.spells ⟨m, p, 0xFF0F, k⟩ (packWord u o i f) = true := by
  show (packWord u o i f &&& 0xFF0F == p) = true
  rw [packWord_and_FF0F, h, beq_self_eq_true]

theorem spells_debounce (raw : Bool) (i : Nibble) :
    OpRow.spells ⟨"EDGE.DEBOUNCE", 0x1100, 0xFF0E, []⟩ (packWord 1 1 i (rawCode raw)) = true := by
  revert i raw
  decide

theorem spells_setwave (w : Waveform) (i : Nibble) :
    OpRow.spells ⟨"OSC.SETWAVE", 0x3000, 0xFF0C, []⟩ (packWord 3 0 i w.code) = true := by
  revert i
  cases w <;> decide

theorem spells_setmode (m : MixMode) (i : Nibble) :
    OpRow.spells ⟨"MIX.SETMODE", 0x5000, 0xFF0E, []⟩ (packWord 5 0 i m.code) = true := by
  revert i
  cases m <;> decide


theorem sysStatus (inst : Nibble) : Statement (.sysStatus inst) :=
  of_row 0 (by decide) (spells_FF0F inst rfl) rfl

theorem sysSetfs (inst : Nibble) (v : NUM) : Statement (.sysSetfs inst v) :=
  of_row 1 (by decide) (spells_FF0F inst rfl) rfl

theorem edgeInit (inst : Nibble) (rate : NUM) : Statement (.edgeInit inst rate) :=
  of_row 2 (by decide) (spells_FF0F inst rfl) rfl

theorem edgeDebounce (inst : Nibble) (raw : Bool) : Statement (.edgeDebounce inst raw) :=
  of_row 3 (by decide) (spells_debounce raw inst) rfl

theorem edgeRising (inst : Nibble) : Statement (.edgeRising inst) :=
  of_row 4 (by decide) (spells_FF0F inst rfl) rfl

theorem envSetattack (inst : Nibble) (v : NUM) : Statement (.envSetattack inst v) :=
  of_row 5 (by decide) (spells_FF0F inst rfl) rfl

theorem envSetdecay (inst : Nibble) (v : NUM) : Statement (.envSetdecay inst v) :=
  of_row 6 (by decide) (spells_FF0F inst rfl) rfl

theorem envSetmin (inst : Nibble) (v : NUM) : Statement (.envSetmin inst v) :=
  of_row 7 (by decide) (spells_FF0F inst rfl) rfl

theorem envSetmax (inst : Nibble) (v : NUM) : Statement (.envSetmax inst v) :=
  of_row 8 (by decide) (spells_FF0F inst rfl) rfl

theorem envTrigger (inst : Nibble) : Statement (.envTrigger inst) :=
  of_row 9 (by decide) (spells_FF0F inst rfl) rfl

theorem envProcess (inst : Nibble) : Statement (.envProcess inst) :=
  of_row 10 (by decide) (spells_FF0F inst rfl) rfl

theorem oscSetwave (inst : Nibble) (w : Waveform) : Statement (.oscSetwave inst w) :=
  of_row 11 (by decide) (spells_setwave w inst) rfl

theorem oscSetfreq (inst : Nibble) (f : NUM) : Statement (.oscSetfreq inst f) :=
  of_row 12 (by decide) (spells_FF0F inst rfl) rfl

theorem oscSetamp (inst : Nibble) (a : NUM) : Statement (.oscSetamp inst a) :=
  of_row 13 (by decide) (spells_FF0F inst rfl) rfl

theorem oscProcess (inst : Nibble) : Statement (.oscProcess inst) :=
  of_row 14 (by decide) (spells_FF0F inst rfl) rfl

theorem noiseSeed (inst : Nibble) (seed : Word) : Statement (.noiseSeed inst seed) :=
  of_row 15 (by decide) (spells_FF0F inst rfl) rfl

theorem noiseProcess (inst : Nibble) : Statement (.noiseProcess inst) :=
  of_row 16 (by decide) (spells_FF0F inst rfl) rfl

theorem mixSetmode (inst : Nibble) (m : MixMode) : Statement (.mixSetmode inst m) :=
  of_row 17 (by decide) (spells_setmode m inst) rfl

theorem mixProcess (inst : Nibble) (click bass snare noise env : NUM) : Statement (.mixProcess inst click bass snare noise env) :=
  of_row 18 (by decide) (spells_FF0F inst rfl) rfl


end Sys2Proof.Laws.Spells
end

