-- ==== Sys2Proof/Laws/Step.lean ====
section
/-! SUPPORT. Everything a command, an action of the issuer and a step can do, said once; what lies outside the block's registers
and no operation touches; lists of operations. -/

namespace Sys2Proof.Machine

/-! ### What no operation touches -/

/-- An operation changes the block and the response port only. -/
theorem exec_outside {i : Instr} {s t : State} (h : exec i s = .next t) :
    t.out = s.out ∧ t.issuer = s.issuer ∧ t.resets = s.resets ∧ t.window = s.window ∧ t.shape = s.shape := by
  rcases exec_inversion h with ⟨-, -, rfl⟩ | ⟨-, -, rfl⟩ | ⟨-, c, rfl⟩ | ⟨-, -, -, hc⟩
  · exact ⟨rfl, rfl, rfl, rfl, rfl⟩
  · exact ⟨rfl, rfl, rfl, rfl, rfl⟩
  · exact ⟨rfl, rfl, rfl, rfl, rfl⟩
  · cases i <;> simp only [Completes] at hc
    case sysSetfs => obtain ⟨-, rfl⟩ := hc; exact ⟨rfl, rfl, rfl, rfl, rfl⟩
    case edgeDebounce => obtain ⟨_, _, -, -, rfl⟩ := hc; exact ⟨rfl, rfl, rfl, rfl, rfl⟩
    case envProcess => obtain ⟨_, _, _, _, _, _, -, -, -, -, -, -, rfl⟩ := hc; exact ⟨rfl, rfl, rfl, rfl, rfl⟩
    case oscProcess => obtain ⟨_, _, _, _, -, -, -, -, rfl⟩ := hc; exact ⟨rfl, rfl, rfl, rfl, rfl⟩
    case sysStatus | oscSetwave | oscSetfreq | oscSetamp | noiseSeed | noiseProcess | mixSetmode | mixProcess =>
      subst hc; exact ⟨rfl, rfl, rfl, rfl, rfl⟩
    all_goals (obtain ⟨_, -, rfl⟩ := hc; exact ⟨rfl, rfl, rfl, rfl, rfl⟩)

/-! ### One command -/

/-- Everything a raw command can do where it ends in a next state. -/
theorem execute_inversion {c : Command} {s t : State} (h : execute c s = .next t) :
    (∃ i, decode c = .ok i ∧ exec i s = .next t) ∨
    (s.block.sys.fault.isSome ∧ t = s.ignored) ∨
    (s.block.sys.fault = none ∧ decode c = .error .reserved ∧ t = s.raise .illegalCommand c.cw) := by
  unfold execute at h
  split at h
  · exact .inl ⟨_, ‹_›, h⟩
  · split at h
    · exact .inr (.inl ⟨by simpa using ‹_›, (Host.Outcome.next.inj h).symm⟩)
    · rename_i hn
      exact .inr (.inr ⟨by simpa using hn, ‹_›, (Host.Outcome.next.inj h).symm⟩)
  · split at h
    · exact .inr (.inl ⟨by simpa using ‹_›, (Host.Outcome.next.inj h).symm⟩)
    · cases h

/-- A raw command changes the block and the response port only. -/
theorem execute_outside {c : Command} {s t : State} (h : execute c s = .next t) :
    t.out = s.out ∧ t.issuer = s.issuer ∧ t.resets = s.resets ∧ t.window = s.window ∧ t.shape = s.shape := by
  rcases execute_inversion h with ⟨i, -, h⟩ | ⟨-, rfl⟩ | ⟨-, -, rfl⟩
  · exact exec_outside h
  · exact ⟨rfl, rfl, rfl, rfl, rfl⟩
  · exact ⟨rfl, rfl, rfl, rfl, rfl⟩

/-! ### One action of the issuer -/

/-- Operands written out reach the bus as they are. -/
@[simp] theorem resolve_literals (ns : Names) (vs : List Value) : resolve ns (vs.map .lit) = some vs := by
  induction vs with
  | nil => rfl
  | cons v vs ih => simp [resolve, resolveOne, ih]

/-- Everything a line can do where it ends in a next state: its `IF` skips it, its command is executed and its response bound, or
a halted block ignores it with an operand unbound. -/
theorem issueLine_inversion {l : Line} {s t : State} (h : issueLine l s = .next t) :
    (condition s.issuer.names l.cond = false ∧ t = s) ∨
    (condition s.issuer.names l.cond = true ∧ ∃ ops u, resolve s.issuer.names l.operands = some ops ∧
      execute ⟨l.cw, ops⟩ s = .next u ∧ t = u.endLine l) ∨
    (s.block.sys.fault.isSome ∧ t = s.ignored.endLine l) := by
  unfold issueLine at h
  split at h
  · split at h
    · obtain ⟨u, hu, ht⟩ := andThen_eq_next h
      exact .inr (.inl ⟨‹_›, _, u, ‹_›, hu, (Host.Outcome.next.inj ht).symm⟩)
    · split at h
      · exact .inr (.inr ⟨by simpa using ‹_›, (Host.Outcome.next.inj h).symm⟩)
      · cases h
  · rename_i hc
    exact .inl ⟨by simpa using hc, (Host.Outcome.next.inj h).symm⟩

/-- Everything an action can do where it ends in a next state. -/
theorem perform_inversion {a : Action} {s t : State} (h : perform a s = .next t) :
    (∃ l, a = .issue l ∧ issueLine l s = .next t) ∨
    (∃ v name b, a = .strobe v name ∧ s.issuer.names.lookup name = some (.bit b) ∧ t = s.setStrobe v b) ∨
    (∃ slot name q m, a = .memWrite slot name ∧ s.issuer.names.lookup name = some (.num q) ∧
      s.out.write slot q = some m ∧ t = { s with out := m }) := by
  unfold perform at h
  split at h
  · exact .inl ⟨_, rfl, h⟩
  · split at h
    · exact .inr (.inl ⟨_, _, _, rfl, ‹_›, (Host.Outcome.next.inj h).symm⟩)
    · cases h
  · split at h
    · split at h
      · exact .inr (.inr ⟨_, _, _, _, rfl, ‹_›, ‹_›, (Host.Outcome.next.inj h).symm⟩)
      · cases h
    · cases h

/-! ### One step -/

/-- With no reset due, a step is the issuer's. -/
theorem step_of_not_due {s : State} (h : ∀ later, s.resets ≠ 0 :: later) :
    step s = issuerStep { s with resets := tick s.resets } := by
  unfold step
  split
  · exact absurd ‹_› (h _)
  · rfl

/-- Everything a step can do where it ends in a next state: a reset event; the next action of a RUNBLOCK in progress; the next
line; the beginning of a RUNBLOCK; or nothing but the reset line's count. -/
theorem step_inversion {s t : State} (h : step s = .next t) :
    (∃ later, s.resets = 0 :: later ∧ t = s.resetBlock later) ∨
    (∃ a rest, s.issuer.block = a :: rest ∧
      perform a { s with resets := tick s.resets, issuer := { s.issuer with block := rest } } = .next t) ∨
    (s.issuer.block = [] ∧ ∃ l rest, s.issuer.program = .line l :: rest ∧
      perform (.issue l) { s with resets := tick s.resets, issuer := { s.issuer with program := rest } } = .next t) ∨
    (s.issuer.block = [] ∧ ∃ pins samples rest, s.issuer.program = .runBlock pins samples :: rest ∧ samples ≠ [] ∧
      t = State.beginBlock { s with resets := tick s.resets } pins samples rest) ∨
    (s.issuer.block = [] ∧ s.issuer.program = [] ∧ t = { s with resets := tick s.resets }) := by
  unfold step at h
  split at h
  · exact .inl ⟨_, ‹_›, (Host.Outcome.next.inj h).symm⟩
  · unfold issuerStep at h
    split at h
    · exact .inr (.inl ⟨_, _, ‹_›, h⟩)
    · split at h
      · exact .inr (.inr (.inr (.inr ⟨‹_›, ‹_›, (Host.Outcome.next.inj h).symm⟩)))
      · exact .inr (.inr (.inl ⟨‹_›, _, _, ‹_›, h⟩))
      · split at h
        · rename_i hw
          refine .inr (.inr (.inr (.inl ⟨‹_›, _, _, _, ‹_›, ?_, (Host.Outcome.next.inj h).symm⟩)))
          simpa [Item.wellFormed, List.length_pos_iff] using hw
        · cases h

/-! ### Several steps -/

theorem core_run_succ (M : Host.Core) {n : Nat} {s t : M.State} (h : M.step s = .next t) : M.run (n + 1) s = M.run n t := by
  rw [Host.Core.run, h]

theorem core_run_add (M : Host.Core) {n m : Nat} {s t : M.State} (h : M.run n s = .next t) :
    M.run (n + m) s = M.run m t := by
  induction n generalizing s with
  | zero => rw [Host.Core.run] at h; cases h; rw [Nat.zero_add]
  | succ n ih =>
    rw [Nat.add_right_comm, Host.Core.run]
    rw [Host.Core.run] at h
    split at h
    · exact ih h
    · cases h
    · cases h

/-- A run of the machine, its first step made. -/
theorem run_succ {n : Nat} {s t : State} (h : step s = .next t) :
    Host.Core.run Sys2Proof.core (n + 1) s = Host.Core.run Sys2Proof.core n t :=
  core_run_succ Sys2Proof.core h

/-- A run of the machine, its first `n` steps made. -/
theorem run_add {n m : Nat} {s t : State} (h : Host.Core.run Sys2Proof.core n s = .next t) :
    Host.Core.run Sys2Proof.core (n + m) s = Host.Core.run Sys2Proof.core m t :=
  core_run_add Sys2Proof.core h

/-! ### Lists of operations -/

@[simp] theorem execAll_nil (s : State) : execAll [] s = .next s := rfl

theorem execAll_cons {i : Instr} {s t : State} (rest : List Instr) (h : exec i s = .next t) :
    execAll (i :: rest) s = execAll rest t := by
  rw [execAll, h, andThen_next]

theorem execAll_append (before after : List Instr) (s : State) :
    execAll (before ++ after) s = andThen (execAll before s) (execAll after) := by
  induction before generalizing s with
  | nil => rfl
  | cons i rest ih =>
    rw [List.cons_append, execAll, execAll]
    cases exec i s with
    | next t => exact ih t
    | fault e => rfl
    | refused e => rfl

/-! ### The readings of a detector -/

@[simp] theorem readings_nil (inst : Nibble) : readings inst [] = [] := rfl

@[simp] theorem readings_append (inst : Nibble) (before after : List Instr) :
    readings inst (before ++ after) = readings inst before ++ readings inst after := by
  simp [readings]

@[simp] theorem readings_debounce (inst : Nibble) (raws : List Bool) :
    readings inst (raws.map (Instr.edgeDebounce inst)) = raws := by
  simp [readings, List.filterMap_map]

end Sys2Proof.Machine
end

