-- ==== Sys2Proof/Machine/Assembly.lean ====
section
/-! DEFINITION. The textual syntax of program lines, 30_encoding.md R91 and R92: `UNIT.OP inst` followed by the immediate and the
operands, comma separated, then `-> name`, with `IF name:` in front where R92 has one; written out, and read. It is notation only
(decision D29): no step reads it. What R91 does not say of the spelling is the model's choice (log entries 17 and 20). -/

namespace Sys2Proof.Machine

/-- An integer in decimal. -/
def intText (z : Int) : String :=
  match z with
  | .ofNat n => toString n
  | .negSucc n => "-" ++ toString (n + 1)

/-- A NUM as an integer or a fraction `p/q` (R91). -/
def numText (q : NUM) : String :=
  if q.den = 1 then intText q.num else intText q.num ++ "/" ++ toString q.den

/-- One hexadecimal digit, capitals as in `0xACE1`. -/
def hexDigit (d : Nibble) : String :=
  match d.toNat with
  | 10 => "A"
  | 11 => "B"
  | 12 => "C"
  | 13 => "D"
  | 14 => "E"
  | 15 => "F"
  | n => toString n

/-- A `bits16` in hexadecimal (R91). -/
def hexText (w : Word) : String :=
  "0x" ++ hexDigit (fieldUnit w) ++ hexDigit (fieldOp w) ++ hexDigit (fieldInst w) ++ hexDigit (fieldImm w)

/-- A value as an operand. -/
def valueText : Value → String
  | .num q => numText q
  | .bits16 w => hexText w
  | .bits4 c => "0x" ++ hexDigit c
  | .bit b => if b then "1" else "0"
  | .nat k => toString k

/-- A bound name; the names of RUNBLOCK are those of 45_system_and_sequencer.md R193. -/
def nameText : Name → String
  | .user k => "x" ++ toString k
  | .r pin => "r[" ++ toString pin ++ "]"
  | .f => "f"
  | .a => "a"
  | .e => "e"
  | .c => "c"
  | .z => "z"
  | .left => "l"
  | .right => "r"
  | .n => "n"

/-- An operand of a line. -/
def operandText : Operand → String
  | .lit v => valueText v
  | .name name => nameText name

/-- Waveforms are written TRI, SINE, SAW, SQUARE (R91). -/
def waveformText : Waveform → String
  | .triangle => "TRI"
  | .sine => "SINE"
  | .saw => "SAW"
  | .square => "SQUARE"

/-- Modes are written OBSERVED, AVERAGE (R91). -/
def modeText : MixMode → String
  | .observed => "OBSERVED"
  | .average => "AVERAGE"

/-- The immediate a line writes out: the raw pin bit, the waveform or the mode (30_encoding.md R85); no other operation
writes one. -/
def immediateText (cw : Word) : List String :=
  match (fieldUnit cw).toNat, (fieldOp cw).toNat with
  | 1, 1 => (rawOfCode (fieldImm cw)).toList.map fun b => valueText (.bit b)
  | 3, 0 => (Waveform.ofCode (fieldImm cw)).toList.map waveformText
  | 5, 0 => (MixMode.ofCode (fieldImm cw)).toList.map modeText
  | _, _ => []

/-- Items with commas between them. -/
def commaText : List String → String
  | [] => ""
  | [t] => t
  | t :: rest => t ++ ", " ++ commaText rest

/-- A line as R91 and the expansion of R193 write it; a reserved word has no mnemonic and no text. -/
def lineText (l : Line) : Option String :=
  match rowOf l.cw with
  | none => none
  | some row =>
    let guardText := match l.cond with | some name => "IF " ++ nameText name ++ ": " | none => ""
    let args := toString (fieldInst l.cw).toNat :: (immediateText l.cw ++ l.operands.map operandText)
    let bindText := match l.bind with
      | [] => ""
      | [name] => " -> " ++ nameText name
      | names => " -> (" ++ commaText (names.map nameText) ++ ")"
    some (guardText ++ row.mnemonic ++ " " ++ commaText args ++ bindText)

/-! ### Reading a line -/

/-- The pieces between the characters that `stop` marks. -/
def pieces (stop : Char → Bool) : List Char → List (List Char)
  | [] => [[]]
  | c :: rest =>
    match stop c, pieces stop rest with
    | true, ps => [] :: ps
    | false, p :: ps => (c :: p) :: ps
    | false, [] => [[c]]

/-- Without the blanks at both ends; a blank is a space (DESIGN CHOICE, log entry 20). -/
def trimmed (t : List Char) : List Char :=
  ((t.dropWhile (· == ' ')).reverse.dropWhile (· == ' ')).reverse

/-- What stands before `->` and what stands after it. -/
def splitArrow : List Char → List Char × Option (List Char)
  | [] => ([], none)
  | '-' :: '>' :: rest => ([], some rest)
  | c :: rest => (c :: (splitArrow rest).1, (splitArrow rest).2)

/-- Decimal digits, one at least. -/
def readNat (t : List Char) : Option Nat :=
  if t.isEmpty || !t.all Char.isDigit then none
  else some (t.foldl (fun k c => 10 * k + (c.toNat - '0'.toNat)) 0)

/-- An integer, a fraction `p/q` or a finite decimal, without its sign (R91); digits stand on both sides of `/` and of `.`
(DESIGN CHOICE, log entry 20). -/
def readUnsigned (t : List Char) : Option NUM :=
  match pieces (· == '/') t, pieces (· == '.') t with
  | [p, q], _ =>
    match readNat p, readNat q with
    | some a, some b => if b = 0 then none else some ((a : NUM) / b)
    | _, _ => none
  | _, [p, q] =>
    match readNat p, readNat q with
    | some a, some b => some ((a : NUM) + (b : NUM) / 10 ^ q.length)
    | _, _ => none
  | _, _ => (readNat t).map fun a => (a : NUM)

/-- A NUM (R91): "`0.75` means `3/4` exactly". A sign is one `-` in front (DESIGN CHOICE, log entry 20). -/
def readNum : List Char → Option NUM
  | '-' :: t => (readUnsigned t).map fun q => -q
  | t => readUnsigned t

/-- The value of a hexadecimal digit, a letter being a capital (DESIGN CHOICE, log entry 20). -/
def readHexDigit (c : Char) : Option Nat :=
  if c.isDigit then some (c.toNat - '0'.toNat)
  else if 'A' ≤ c ∧ c ≤ 'F' then some (c.toNat - 'A'.toNat + 10)
  else none

/-- A `bits16` in hexadecimal, `0xACE1` (R91). R91 says neither how many digits nor which case: the reader takes exactly four digits
with capitals, and `0x1` or `0xace1` is no operand (DESIGN CHOICE, log entry 20). -/
def readWord : List Char → Option Word
  | ['0', 'x', a, b, c, d] =>
    match readHexDigit a, readHexDigit b, readHexDigit c, readHexDigit d with
    | some p, some q, some r, some s => some (BitVec.ofNat 16 (((p * 16 + q) * 16 + r) * 16 + s))
    | _, _, _, _ => none
  | _ => none

/-- A name, spelt as `nameText` spells it. -/
def readName : List Char → Option Name
  | ['f'] => some .f
  | ['a'] => some .a
  | ['e'] => some .e
  | ['c'] => some .c
  | ['z'] => some .z
  | ['l'] => some .left
  | ['r'] => some .right
  | ['n'] => some .n
  | 'x' :: t => (readNat t).map .user
  | ['r', '[', d, ']'] => (readNat [d]).map .r
  | _ => none

/-- An operand of the given type: a value, or a bound name. -/
def readOperand (k : Kind) (t : List Char) : Option Operand :=
  match readName t, k with
  | some name, _ => some (.name name)
  | none, .num => (readNum t).map fun q => .lit (.num q)
  | none, .bits16 => (readWord t).map fun w => .lit (.bits16 w)
  | none, .bits4 | none, .bit | none, .nat => none

/-- One operand for each type, and no more. -/
def readOperands : List Kind → List (List Char) → Option (List Operand)
  | [], [] => some []
  | k :: ks, t :: ts =>
    match readOperand k t, readOperands ks ts with
    | some o, some os => some (o :: os)
    | _, _ => none
  | [], _ :: _ => none
  | _ :: _, [] => none

/-- The words an immediate is written with, and the FIELD each stands for; none for a row that writes no immediate
(30_encoding.md R85, R91). -/
def immediates (row : OpRow) : List (String × Nibble) :=
  if row.pattern = 0x1100 then [("0", rawCode false), ("1", rawCode true)]
  else if row.pattern = 0x3000 then [Waveform.triangle, .sine, .saw, .square].map fun w => (waveformText w, w.code)
  else if row.pattern = 0x5000 then [MixMode.observed, .average].map fun m => (modeText m, m.code)
  else []

/-- Every reading succeeds, or none does. -/
def allSome {α : Type} : List (Option α) → Option (List α)
  | [] => some []
  | some a :: rest => (allSome rest).map (a :: ·)
  | none :: _ => none

/-- The names after `->`: none, one, or several in parentheses, whose closing one is not insisted on (DESIGN CHOICE, log
entry 20). -/
def readBind : Option (List Char) → Option (List Name)
  | none => some []
  | some t =>
    match trimmed t with
    | '(' :: rest => allSome ((pieces (· == ',') (rest.filter (· ≠ ')'))).map fun p => readName (trimmed p))
    | name => (readName name).map fun x => [x]

/-- The arguments after the mnemonic: INST in decimal (DESIGN CHOICE, log entry 20), the immediate where the row writes one, the
operands of R86. -/
def readArgs (row : OpRow) (args : List (List Char)) (bind : List Name) (cond : Option Name) : Option Line :=
  match args with
  | [] => none
  | inst :: rest =>
    match readNat inst, immediates row, rest with
    | some i, [], ops =>
      if i < 16 then (readOperands row.operands ops).map fun os => ⟨row.pattern ||| BitVec.ofNat 16 (16 * i), os, bind, cond⟩ else none
    | some i, table, imm :: ops =>
      match table.find? (fun p => p.1.toList == imm) with
      | some (_, fld) =>
        if i < 16 then
          (readOperands row.operands ops).map fun os =>
            ⟨row.pattern ||| BitVec.ofNat 16 (16 * i) ||| fld.setWidth 16, os, bind, cond⟩
        else none
      | none => none
    | _, _, _ => none

/-- The row of R83 with the given mnemonic. -/
def rowNamed (mnemonic : List Char) : Option OpRow := opcodeTable.find? (fun row => row.mnemonic.toList == mnemonic)

/-- The line of a mnemonic with its arguments. -/
def readRow (mnemonic : String) (args : List (List Char)) (bind : List Name) (cond : Option Name) : Option Line :=
  (rowNamed mnemonic.toList).bind fun row => readArgs row args bind cond

/-- A command without an `IF`, or one of the pseudo-instructions ENV.INIT and OSC.INIT, as the lines it stands for (R92). What stands
after `->`, and the `IF` in front, go to every line of a pseudo-instruction (DESIGN CHOICE, log entry 20). -/
def readCommand (cond : Option Name) (t : List Char) : Option (List Line) :=
  let mnemonic := String.ofList (t.takeWhile (· ≠ ' '))
  let parts := splitArrow (t.dropWhile (· ≠ ' '))
  let args := (pieces (· == ',') parts.1).map trimmed
  match readBind parts.2 with
  | none => none
  | some bind =>
    match mnemonic, args with
    | "ENV.INIT", [j, a, d, lo, hi] =>
      allSome [readRow "ENV.SETATTACK" [j, a] bind cond, readRow "ENV.SETDECAY" [j, d] bind cond,
        readRow "ENV.SETMIN" [j, lo] bind cond, readRow "ENV.SETMAX" [j, hi] bind cond]
    | "OSC.INIT", [o, w, f, a] =>
      allSome [readRow "OSC.SETWAVE" [o, w] bind cond, readRow "OSC.SETFREQ" [o, f] bind cond,
        readRow "OSC.SETAMP" [o, a] bind cond]
    | name, args => (readRow name args bind cond).map fun l => [l]

/-- A line of text as the program lines it stands for: `;` starts a comment, `IF name:` may stand in front (R91, R92). R91 is silent
on a line without a command: where nothing stands but blanks and a comment the reader gives none, as for any text that is no
command, and not the empty list (DESIGN CHOICE, log entry 20). -/
def readLine (text : String) : Option (List Line) :=
  match trimmed (text.toList.takeWhile (· ≠ ';')) with
  | 'I' :: 'F' :: ' ' :: rest =>
    match readName (rest.takeWhile (· ≠ ':')), rest.dropWhile (· ≠ ':') with
    | some name, ':' :: command => readCommand (some name) (trimmed command)
    | _, _ => none
  | command => readCommand none command

end Sys2Proof.Machine
end

