-- ==== Sys2Proof/Tests/Slice0.lean ====
section
/-! SUPPORT. The model's own tests: the WellFormed checks, words written out from the spec's encoding, one step of every operation
with the values of 95_test_vectors.md, and for every obligation with hypotheses a state and operands that meet them. -/

namespace Sys2Proof.Tests

set_option Elab.async false

open Sys2Proof.Machine

/-! ### What is read off an outcome -/

/-- The outcome is a next state that passes `p`. -/
def reaches (r : Result) (p : State → Bool) : Bool :=
  match r with
  | .next t => p t
  | .fault _ => false
  | .refused _ => false

theorem exists_of_reaches {r : Result} {p : State → Bool} (h : reaches r p = true) : ∃ t, r = .next t ∧ p t = true := by
  cases r with
  | next t => exact ⟨t, rfl, h⟩
  | fault e => cases h
  | refused e => cases h

/-- The operation the decoder reads, if any. -/
def decoded (cw : Word) (operands : List Value) : Option Instr :=
  match decode ⟨cw, operands⟩ with
  | .ok i => some i
  | .error _ => none

/-- The decoder reads the word as reserved. -/
def reserved (cw : Word) : Bool :=
  match decode ⟨cw, []⟩ with
  | .error .reserved => true
  | _ => false

/-! ### Small states -/

/-- The envelope of 95_test_vectors.md 1.2: ATTACK 1/2, DECAY 1, MIN 0, MAX 3/4, so `A = 4` and `D = 8` at FS 8. -/
def envAt (stage : Stage) (elapsed : Nat) : EnvRegs := ⟨some (1 / 2), some 1, some 0, some (3 / 4), stage, elapsed⟩

/-- A block with FS 8, RATE 1000, every envelope `v`, the triangle of P2 with FREQ 1 and AMP 1/2; DEBOUNCE_WINDOW is 3/1000. -/
def block (e : EdgeRegs) (v : EnvRegs) (phase : NUM) (lfsr : Word) (m : MixMode) : Block where
  sys := ⟨some 8, none⟩
  edge := #v[e, e, e, e]
  env := #v[v, v, v]
  osc := ⟨some .triangle, some 1, some (1 / 2), phase⟩
  noise := ⟨lfsr⟩
  mix := ⟨m⟩

/-- A state with such a block and nothing to do. -/
def ready (e : EdgeRegs := ⟨some 1000, false, 2, false⟩) (v : EnvRegs := envAt .attack 1) (phase : NUM := 1 / 8)
    (lfsr : Word := 0xACE1) (m : MixMode := .observed) : State :=
  { State.reset with block := block e v phase lfsr m, window := 3 / 1000 }

/-- The reset state with a fault recorded. -/
def halted : State := State.reset.raise .unconfigured 0x2200

/-- A RUNBLOCK of one sample at the head of the program, on `ready`. -/
def beforeRunBlock : State :=
  { ready with issuer := { State.reset.issuer with program := [.runBlock #v[true, false, false, true] [(0, 1 / 2)]] } }

/-- A line at the head of the program, a reset event three steps away. -/
def atLine : State :=
  { ready with resets := [3], issuer := { State.reset.issuer with program := [.line { cw := 0x2120 }] } }

/-- The last sample iteration of a RUNBLOCK of one sample. -/
def atSample : State :=
  { ready with out := ⟨2, []⟩, issuer := { State.reset.issuer with block := sampleLoop 0 0 (1 / 2) } }

/-! ### WellFormed refuses -/

theorem test_instance_check :
    Instr.wellFormed (.sysStatus 1) = false ∧ Instr.wellFormed (.edgeRising 4) = false ∧
    Instr.wellFormed (.edgeRising 3) = true ∧ Instr.wellFormed (.envTrigger 3) = false ∧
    Instr.wellFormed (.envTrigger 2) = true ∧ Instr.wellFormed (.oscProcess 1) = false ∧
    Instr.wellFormed (.noiseProcess 15) = false ∧ Instr.wellFormed (.mixSetmode 1 .average) = false := by decide

theorem test_block_size_check :
    Item.wellFormed (.runBlock #v[true, false, false, false] []) = false ∧
    Item.wellFormed (.runBlock #v[true, false, false, false] [(0, 0)]) = true := by decide

theorem test_operand_list_check :
    Command.wellFormed ⟨0x2023, []⟩ = false ∧ Command.wellFormed ⟨0x2023, [.bits16 3]⟩ = false ∧
    Command.wellFormed ⟨0x2023, [.num 1, .num 1]⟩ = false ∧ Command.wellFormed ⟨0x2023, [.num 1]⟩ = true ∧
    Command.wellFormed ⟨0xFFFF, []⟩ = false := by decide +kernel

/-! ### Words written out: 95_test_vectors.md section 6, 30_encoding.md R83 and R91 -/

theorem test_decode_sys :
    decoded 0b0000000000010000 [] = some (.sysStatus 1) ∧ decoded 0b0000000100000000 [.num 8] = some (.sysSetfs 0 8) := by
  decide +kernel

theorem test_decode_edge :
    decoded 0b0001000000100000 [.num 1000] = some (.edgeInit 2 1000) ∧
    decoded 0b0001000100110001 [] = some (.edgeDebounce 3 true) ∧
    decoded 0b0001000101000000 [] = some (.edgeDebounce 4 false) ∧
    decoded 0b0001001000110000 [] = some (.edgeRising 3) := by decide +kernel

theorem test_decode_env :
    decoded 0b0010000000000000 [.num (1 / 100)] = some (.envSetattack 0 (1 / 100)) ∧
    decoded 0b0010000000100001 [.num 1] = some (.envSetdecay 2 1) ∧
    decoded 0b0010000000010010 [.num 0] = some (.envSetmin 1 0) ∧
    decoded 0b0010000000100011 [.num (3 / 4)] = some (.envSetmax 2 (3 / 4)) ∧
    decoded 0b0010000100100000 [] = some (.envTrigger 2) ∧
    decoded 0b0010001000010000 [] = some (.envProcess 1) := by decide +kernel

theorem test_decode_osc :
    decoded 0b0011000000000011 [] = some (.oscSetwave 0 .square) ∧
    decoded 0b0011000000000001 [] = some (.oscSetwave 0 .sine) ∧
    decoded 0b0011000100000000 [.num 400] = some (.oscSetfreq 0 400) ∧
    decoded 0b0011001000000000 [.num (1 / 2)] = some (.oscSetamp 0 (1 / 2)) ∧
    decoded 0b0011001100000000 [] = some (.oscProcess 0) := by decide +kernel

theorem test_decode_noise :
    decoded 0b0100000000000000 [.bits16 0x0001] = some (.noiseSeed 0 0x0001) ∧
    decoded 0b0100000100000000 [] = some (.noiseProcess 0) := by decide +kernel

theorem test_decode_mix :
    decoded 0b0101000000000001 [] = some (.mixSetmode 0 .average) ∧
    decoded 0b0101000000000000 [] = some (.mixSetmode 0 .observed) ∧
    decoded 0b0101000100010000 [.num 1, .num 2, .num 3, .num 4, .num 5] = some (.mixProcess 1 1 2 3 4 5) := by decide +kernel

/-- The reserved words of 95_test_vectors.md section 6. -/
theorem test_reserved_words :
    [0x0001, 0x0200, 0x1031, 0x1132, 0x1300, 0x2004, 0x2201, 0x2234, 0x2300, 0x3004, 0x3400, 0x4200, 0x5002, 0x6000,
      0xFFFF].all reserved = true := by decide

/-- The host's word: a row's word runs, its operands zeros (R80; a word has 16 bits). -/
theorem test_table_word :
    decodeTableWord 16 0x5100 = some (.mixProcess 0 0 0 0 0 0) ∧ decodeTableWord 16 0x4000 = some (.noiseSeed 0 0) ∧
    decodeTableWord 16 0x1131 = some (.edgeDebounce 3 true) ∧ decodeTableWord 16 0x1132 = none := by decide +kernel

theorem test_fetched_word_runs :
    reaches (step (State.reset.withFetchWord 16 0x4100)) (fun t => t.resp = some (.num (9105 / 16384)) ∧
      t.block.noise.lfsr = 0x4722) = true := by decide +kernel

/-- The lines of 30_encoding.md R91 and R92, and one of 45_system_and_sequencer.md R193. -/
theorem test_line_text :
    lineText { cw := 0x2000, operands := [.lit (.num (1 / 100))] } = some "ENV.SETATTACK 0, 1/100" ∧
    lineText { cw := 0x1131 } = some "EDGE.DEBOUNCE 3, 1" ∧
    lineText { cw := 0x3000 } = some "OSC.SETWAVE 0, TRI" ∧
    lineText { cw := 0x2210, bind := [.a] } = some "ENV.PROCESS 1 -> a" ∧
    lineText { cw := 0x3200, operands := [.name .a] } = some "OSC.SETAMP 0, a" ∧
    lineText { cw := 0x2110, cond := some (.r 0) } = some "IF r[0]: ENV.TRIGGER 1" ∧
    lineText { cw := 0x5100, operands := [.name .c, .lit (.num 0), .lit (.num 0), .name .z, .name .e], bind := [.left, .right, .n] } =
      some "MIX.PROCESS 0, c, 0, 0, z, e -> (l, r, n)" := by decide +kernel

/-- The same lines read, with a finite decimal and a comment; an operand too few and an INST of five bits are no line. -/
theorem test_read_line :
    readLine "ENV.SETATTACK 0, 1/100        ; cw 0x2000" = some [{ cw := 0x2000, operands := [.lit (.num (1 / 100))] }] ∧
    readLine "ENV.SETMAX 2, 0.75" = some [{ cw := 0x2023, operands := [.lit (.num (3 / 4))] }] ∧
    readLine "SYS.SETFS 0, -48000" = some [{ cw := 0x0100, operands := [.lit (.num (-48000))] }] ∧
    readLine "EDGE.DEBOUNCE 3, 1" = some [{ cw := 0x1131 }] ∧ readLine "OSC.SETWAVE 0, SQUARE" = some [{ cw := 0x3003 }] ∧
    readLine "NOISE.SEED 0, 0xACE1" = some [{ cw := 0x4000, operands := [.lit (.bits16 0xACE1)] }] ∧
    readLine "ENV.PROCESS 1 -> a" = some [{ cw := 0x2210, bind := [.a] }] ∧
    readLine "IF r[0]: ENV.TRIGGER 1" = some [{ cw := 0x2110, cond := some (.r 0) }] ∧
    readLine "ENV.SETMAX 2" = none ∧ readLine "ENV.SETMAX 16, 1" = none := by decide +kernel

theorem test_read_pseudo :
    readLine "MIX.PROCESS 0, c, 0, 0, z, e -> (l, r, n)" = some
      [{ cw := 0x5100, operands := [.name .c, .lit (.num 0), .lit (.num 0), .name .z, .name .e], bind := [.left, .right, .n] }] ∧
    readLine "ENV.INIT 0, 1/8, 1/2, 1, 2" = some ((envInit 0 (1 / 8) (1 / 2) 1 2).map instrLine) ∧
    readLine "OSC.INIT 0, TRI, 1, 1/2" = some ((oscInit 0 .triangle 1 (1 / 2)).map instrLine) := by decide +kernel

/-! ### SYS (95_test_vectors.md section 7) -/

theorem test_status_after_fault :
    reaches (exec (.sysStatus 0) halted) (fun t => t.resp = some (.status true 4 0x2200)) = true := by decide +kernel

theorem test_status_other_instance_ignored :
    reaches (exec (.sysStatus 1) halted) (fun t => t.resp = none ∧ t.block = halted.block) = true := by decide +kernel

theorem test_setfs_accepts_fraction :
    reaches (exec (.sysSetfs 0 (1 / 2)) State.reset) (fun t => t.block.sys = ⟨some (1 / 2), none⟩) = true := by decide +kernel

theorem test_setfs_refuses_negative :
    reaches (exec (.sysSetfs 0 (-48000)) State.reset) (fun t => t.block.sys = ⟨none, some ⟨.badConfig, 0x0100⟩⟩) = true := by
  decide +kernel

/-! ### Faults (95_test_vectors.md section 7 and P4) -/

theorem test_bad_instance_before_other_checks :
    reaches (exec (.sysSetfs 1 (-1)) State.reset) (fun t => t.block.sys.fault = some ⟨.badInstance, 0x0110⟩) = true ∧
    reaches (exec (.envProcess 3) State.reset) (fun t => t.block.sys.fault = some ⟨.badInstance, 0x2230⟩) = true := by
  decide +kernel

theorem test_illegal_command :
    reaches (execute ⟨0x2234, []⟩ State.reset) (fun t => t.block.sys.fault = some ⟨.illegalCommand, 0x2234⟩ ∧
      t.resp = none) = true := by decide +kernel

theorem test_unconfigured_keeps_elapsed :
    reaches (exec (.envProcess 0) { State.reset with block := { State.reset.block with
        sys := ⟨some 8, none⟩, env := #v[{ envAt .attack 0 with min := none }, .reset, .reset] } })
      (fun t => t.block.sys.fault = some ⟨.unconfigured, 0x2200⟩ ∧ t.block.env[0].elapsed = 0 ∧ t.resp = none) = true := by
  decide +kernel

theorem test_halted_ignores_setmin :
    reaches (exec (.envSetmin 0 0) halted) (fun t => t.block = halted.block ∧ t.resp = none) = true := by decide +kernel

/-! ### EDGE (95_test_vectors.md section 2, DEBOUNCE_WINDOW 3/1000) -/

/-- The table of section 2.3. -/
theorem test_thresholds :
    [(0 : NUM), -5, 1, 333, 1000 / 3, 334, 1001 / 3, 1000, 2000].map (threshold (3 / 1000)) = [1, 1, 1, 1, 1, 2, 2, 3, 6] := by
  decide +kernel

theorem test_init_forgets_level :
    reaches (exec (.edgeInit 0 1000) (ready ⟨some 2, true, 1, true⟩)) (fun t =>
      t.block.edge[0] = ⟨some 1000, false, 0, false⟩ ∧ t.block.edge[1] = ⟨some 2, true, 1, true⟩) = true := by decide +kernel

/-- Section 2.1 step 6. -/
theorem test_debounce_third_reading_moves_level :
    reaches (exec (.edgeDebounce 0 true) (ready ⟨some 1000, false, 2, false⟩)) (fun t =>
      t.block.edge[0] = ⟨some 1000, true, 0, true⟩ ∧ t.resp = some .empty) = true := by decide +kernel

/-- Section 2.1 steps 14 and 13: a fall sets no RISE; two readings do not move LEVEL. -/
theorem test_debounce_fall_sets_no_rise :
    reaches (exec (.edgeDebounce 0 false) (ready ⟨some 1000, true, 2, true⟩)) (fun t =>
      t.block.edge[0] = ⟨some 1000, false, 0, false⟩) = true ∧
    reaches (exec (.edgeDebounce 0 false) (ready ⟨some 1000, true, 1, true⟩)) (fun t =>
      t.block.edge[0] = ⟨some 1000, true, 2, false⟩) = true := by decide +kernel

theorem test_rising_answers_and_clears :
    reaches (exec (.edgeRising 3) (ready ⟨some 1000, true, 0, true⟩)) (fun t =>
      t.resp = some (.bit true) ∧ t.block.edge[3] = ⟨some 1000, true, 0, false⟩) = true := by decide +kernel

theorem test_rising_needs_no_configuration :
    reaches (exec (.edgeRising 2) State.reset) (fun t => t.resp = some (.bit false) ∧ t.block = State.reset.block) = true := by
  decide +kernel

/-! ### ENV (95_test_vectors.md section 1) -/

theorem test_env_setters :
    reaches (exec (.envSetattack 0 (1 / 100)) State.reset) (fun t => t.block.env[0] = { EnvRegs.reset with attack := some (1 / 100) }) = true ∧
    reaches (exec (.envSetdecay 2 1) State.reset) (fun t => t.block.env[2] = { EnvRegs.reset with decay := some 1 }) = true ∧
    reaches (exec (.envSetmin 1 0) State.reset) (fun t => t.block.env[1] = { EnvRegs.reset with min := some 0 }) = true ∧
    reaches (exec (.envSetmax 1 (3 / 4)) State.reset) (fun t => t.block.env[1] = { EnvRegs.reset with max := some (3 / 4) }) = true := by
  decide +kernel

/-- R126's example. -/
theorem test_trigger_from_decay :
    reaches (exec (.envTrigger 0) (ready (v := envAt .decay 2))) (fun t =>
      t.block.env[0] = envAt .attack 0 ∧ t.block.env[1] = envAt .decay 2) = true := by decide +kernel

/-- R127's example, and call 5 of section 1.2. -/
theorem test_process_on_the_line :
    reaches (exec (.envProcess 0) (ready (v := envAt .attack 1))) (fun t =>
      t.resp = some (.num (3 / 8)) ∧ t.block.env[0] = envAt .attack 2) = true ∧
    reaches (exec (.envProcess 0) (ready (v := envAt .decay 0))) (fun t =>
      t.resp = some (.num (21 / 32)) ∧ t.block.env[0] = envAt .decay 1) = true := by decide +kernel

/-- Section 1.4: `A = 5/2` completes at the third call, with MAX; `D = 3/2` at the second, with MIN. -/
theorem test_process_completes_fractional_segments :
    reaches (exec (.envProcess 2) (ready (v := ⟨some (5 / 16), some (3 / 16), some (-1), some 1, .attack, 2⟩))) (fun t =>
      t.resp = some (.num 1) ∧ t.block.env[2].stage = .decay ∧ t.block.env[2].elapsed = 0) = true ∧
    reaches (exec (.envProcess 2) (ready (v := ⟨some (5 / 16), some (3 / 16), some (-1), some 1, .decay, 1⟩))) (fun t =>
      t.resp = some (.num (-1)) ∧ t.block.env[2].stage = .idle ∧ t.block.env[2].elapsed = 0) = true := by decide +kernel

/-! ### OSC (95_test_vectors.md section 3 and P2) -/

theorem test_osc_setters :
    reaches (exec (.oscSetwave 0 .square) (ready)) (fun t => t.block.osc = ⟨some .square, some 1, some (1 / 2), 1 / 8⟩) = true ∧
    reaches (exec (.oscSetfreq 0 400) (ready)) (fun t => t.block.osc = ⟨some .triangle, some 400, some (1 / 2), 1 / 8⟩) = true ∧
    reaches (exec (.oscSetamp 0 (-2)) (ready)) (fun t => t.block.osc = ⟨some .triangle, some 1, some (-2), 1 / 8⟩) = true := by
  decide +kernel

/-- R156's example, and the wrap at the end of a period: the eighth call of section 3.1. -/
theorem test_osc_process_triangle :
    reaches (exec (.oscProcess 0) (ready (phase := 1 / 8))) (fun t =>
      t.resp = some (.num 0) ∧ t.block.osc.phase = 1 / 4) = true ∧
    reaches (exec (.oscProcess 0) (ready (phase := 7 / 8))) (fun t =>
      t.resp = some (.num (1 / 2)) ∧ t.block.osc.phase = 0) = true := by decide +kernel

/-- 42_oscillator.md R150 and R156: a machine with another WAVE advances its phase the same. -/
theorem test_osc_process_other_wave :
    reaches (exec (.oscProcess 0) { ready with shape := .other 7 }) (fun t => t.block.osc.phase = 1 / 4) = true := by
  decide +kernel

/-- P2 step 18: SINE at a pinned phase, the phase running backwards past 0. -/
theorem test_osc_process_sine_backwards :
    reaches (exec (.oscProcess 0) { State.reset with block := { State.reset.block with
        sys := ⟨some 8, none⟩, osc := ⟨some .sine, some (-2), some 3, 0⟩ } }) (fun t =>
      t.resp = some (.num (-3)) ∧ t.block.osc.phase = 3 / 4) = true := by decide +kernel

/-- The table of 42_oscillator.md R151, and section 3.1's square at 1/2. -/
theorem test_wave_table :
    [(0 : NUM), 1 / 4, 1 / 2, 3 / 4].map (wave .triangle · 0) = [1, 0, -1, 0] ∧
    [(0 : NUM), 1 / 4, 1 / 2, 3 / 4].map (wave .sine · 0) = [0, 1, 0, -1] ∧
    [(0 : NUM), 1 / 4, 1 / 2, 3 / 4].map (wave .saw · 0) = [1, 1 / 2, 0, -1 / 2] ∧
    [(0 : NUM), 1 / 4, 1 / 2, 3 / 4].map (wave .square · 0) = [1, 1, -1, -1] := by decide +kernel

/-! ### NOISE (95_test_vectors.md section 4) -/

theorem test_single_shifts :
    [(0x0001 : Word), 0x8000, 0x0004, 0x0005, 0x0020, 0x002D].map lfsrStep =
      [0x8000, 0x4000, 0x8002, 0x0002, 0x8010, 0x0016] := by decide

theorem test_zero_seed_is_replaced :
    reaches (exec (.noiseSeed 0 0x0000) (ready (lfsr := 0x1234))) (fun t => t.block.noise.lfsr = 0xACE1) = true ∧
    reaches (exec (.noiseSeed 0 0x0001) (ready)) (fun t => t.block.noise.lfsr = 0x0001) = true := by decide +kernel

/-- Section 4.2 calls 1 and 3: a positive and a negative sample. -/
theorem test_noise_samples :
    reaches (exec (.noiseProcess 0) State.reset) (fun t =>
      t.block.noise.lfsr = 0x4722 ∧ t.resp = some (.num (9105 / 16384))) = true ∧
    reaches (exec (.noiseProcess 0) (ready (lfsr := 0xC437))) (fun t =>
      t.block.noise.lfsr = 0xE39D ∧ t.resp = some (.num (-7267 / 32768))) = true := by decide +kernel

/-! ### MIX (95_test_vectors.md section 5) -/

theorem test_setmode :
    reaches (exec (.mixSetmode 0 .average) State.reset) (fun t => t.block.mix.mode = .average) = true := by decide +kernel

/-- Rows 4 and 10, OBSERVED. -/
theorem test_mix_observed :
    reaches (exec (.mixProcess 0 (1 / 2) (1 / 4) 0 (1 / 2) 1) (ready)) (fun t =>
      t.resp = some (.frame (1 / 2) (1 / 2) 2) ∧ t.block = ready.block) = true ∧
    reaches (exec (.mixProcess 0 2 0 0 (-1) (-3)) (ready)) (fun t => t.resp = some (.frame (5 / 2) (5 / 2) 1)) = true := by
  decide +kernel

/-- Rows 4, 5 and 2, AVERAGE. -/
theorem test_mix_average :
    reaches (exec (.mixProcess 0 (1 / 2) (1 / 4) 0 (1 / 2) 1) (ready (m := .average))) (fun t =>
      t.resp = some (.frame (7 / 16) (7 / 16) 2)) = true ∧
    reaches (exec (.mixProcess 0 (1 / 2) (1 / 4) (-3 / 4) 0 1) (ready (m := .average))) (fun t =>
      t.resp = some (.frame 0 0 3)) = true ∧
    reaches (exec (.mixProcess 0 0 0 0 (-1 / 2) (1 / 2)) (ready (m := .average))) (fun t =>
      t.resp = some (.frame (-1 / 8) (-1 / 8) 0)) = true := by decide +kernel

/-! ### OUT, the reset event, RUNBLOCK -/

theorem test_out_write :
    (Memory.write ⟨4, [(0, 1), (3, 2)]⟩ 2 5) = some ⟨4, [(0, 1), (2, 5), (3, 2)]⟩ ∧
    (Memory.write ⟨4, [(0, 1), (3, 2)]⟩ 3 5) = some ⟨4, [(0, 1), (3, 5)]⟩ ∧ Memory.write ⟨4, []⟩ 4 5 = none := by decide +kernel

theorem test_reset_event :
    reaches (step { halted with resets := [0, 7] }) (fun t => t.block = State.reset.block ∧ t.resets = [7]) = true := by
  decide +kernel

/-- The first step of a RUNBLOCK of one sample: 13 actions before the sample loop, 10 in it (R193), a buffer of two slots. -/
theorem test_run_block_begins :
    reaches (step beforeRunBlock) (fun t => t.issuer.block.length = 23 ∧ t.out = ⟨2, []⟩ ∧ t.issuer.program = []) = true := by
  decide +kernel

/-- `IF r0:` with the bit 0 skips the command, with the bit 1 issues it (R92). -/
theorem test_if_skips :
    reaches (perform (lineOf (.envTrigger 0) [] [] (some (.r 0)))
      { ready (v := envAt .decay 2) with issuer := { State.reset.issuer with names := [(.r 0, .bit false)] } })
      (fun t => t.block.env[0] = envAt .decay 2) = true ∧
    reaches (perform (lineOf (.envTrigger 0) [] [] (some (.r 0)))
      { ready (v := envAt .decay 2) with issuer := { State.reset.issuer with names := [(.r 0, .bit true)] } })
      (fun t => t.block.env[0] = envAt .attack 0) = true := by decide +kernel

/-- A response is bound to its names, component by component (R86, R91). -/
theorem test_bind_frame :
    bindAll [.left, .right, .n] (responseComponents (.frame 1 2 3)) [(.right, .bit true)] =
      [(.right, .num 2), (.left, .num 1), (.n, .nat 3)] := by decide +kernel

/-! ### Witnesses: for every obligation with hypotheses, a state and operands that meet them, one conjunct a clause -/

theorem ready_configured : FullyConfigured ready.block :=
  ⟨⟨rfl, by decide +kernel, by decide +kernel, by decide +kernel, by decide +kernel, by decide +kernel, rfl⟩, rfl, rfl⟩

theorem witness_EncodeOfDecodeIsTheCommand : decode ⟨0x1131, []⟩ = .ok (.edgeDebounce 3 true) := by rfl

theorem witness_NoWordSpellsTwoRows : ∃ r ∈ opcodeTable, r.spells 0x2023 = true ∧ r.spells 0x2023 = true := by decide

theorem witness_HaltedBlockAnswersOnlyStatus :
    halted.block.sys.fault = some ⟨.unconfigured, 0x2200⟩ ∧ (⟨0x0010, []⟩ : Command) ≠ ⟨0x0000, []⟩ ∧
    (∀ later, (halted.withCommand ⟨0x0100, [.num 8]⟩).resets ≠ 0 :: later) ∧
    ∃ t, step (halted.withCommand ⟨0x0100, [.num 8]⟩) = .next t ∧ decide (t.block = halted.block) = true :=
  ⟨rfl, by decide +kernel, by simp [State.withCommand], exists_of_reaches (by decide +kernel)⟩

theorem witness_ReservedWordsRaiseIllegalCommand :
    Safe ready ∧ decode ⟨0x2004, []⟩ = .error .reserved ∧
    ∃ t, execute ⟨0x2004, []⟩ ready = .next t ∧ decide (t.block.sys.fault = some ⟨.illegalCommand, 0x2004⟩) = true :=
  ⟨rfl, rfl, exists_of_reaches (by decide +kernel)⟩

/-- INST one at the count: 4 for EDGE, 1 for MIX. -/
theorem witness_MissingInstancesRaiseBadInstance :
    Safe ready ∧ (Instr.edgeRising 4).unit.count ≤ (Instr.edgeRising 4).inst.toNat ∧
    (Instr.mixSetmode 1 .average).unit.count ≤ (Instr.mixSetmode 1 .average).inst.toNat ∧
    ∃ t, exec (.edgeRising 4) ready = .next t ∧ decide (t.block.sys.fault = some ⟨.badInstance, 0x1240⟩) = true :=
  ⟨rfl, by decide, by decide, exists_of_reaches (by decide +kernel)⟩

theorem witness_NonPositiveRatesRaiseBadConfig :
    Safe ready ∧ (0 : NUM) ≤ 0 ∧ (-1 : NUM) ≤ 0 ∧
    ∃ t, exec (.sysSetfs 0 0) ready = .next t ∧ decide (t.block.sys.fault = some ⟨.badConfig, 0x0100⟩) = true :=
  ⟨rfl, by decide +kernel, by decide +kernel, exists_of_reaches (by decide +kernel)⟩

/-- One clause each: RATE, a register of the last envelope, FREQ unwritten. -/
theorem witness_UnwrittenRegistersRaiseUnconfigured :
    Safe State.reset ∧ (Instr.edgeDebounce 3 true).wellFormed = true ∧ (3 : Nibble).toNat = (3 : Fin 4).val ∧
    State.reset.block.edge[(3 : Fin 4)].rate = none ∧ (Instr.envProcess 2).wellFormed = true ∧
    (2 : Nibble).toNat = (2 : Fin 3).val ∧ State.reset.block.env[(2 : Fin 3)].max = none ∧
    (Instr.oscProcess 0).wellFormed = true ∧ State.reset.block.osc.freq = none ∧
    ∃ t, exec (.envProcess 2) State.reset = .next t ∧ decide (t.block.sys.fault = some ⟨.unconfigured, 0x2220⟩) = true :=
  ⟨rfl, by decide, by decide, rfl, by decide, by decide, rfl, by decide, rfl, exists_of_reaches (by decide +kernel)⟩

theorem witness_FaultsArePrecise :
    Safe ready ∧ ∃ t, execute ⟨0x2230, []⟩ ready = .next t ∧ decide (t.block.sys.fault = some ⟨.badInstance, 0x2230⟩) = true :=
  ⟨rfl, exists_of_reaches (by decide +kernel)⟩

/-- Both outcomes: the record stays; the reset event clears it. -/
theorem witness_OnlyResetClearsTheFaultRecord :
    halted.block.sys.fault = some ⟨.unconfigured, 0x2200⟩ ∧
    (∃ t, step (halted.withCommand ⟨0x0100, [.num 8]⟩) = .next t ∧ decide (t.block.sys.fault = some ⟨.unconfigured, 0x2200⟩) = true) ∧
    ∃ t, step { halted with resets := [0] } = .next t ∧ decide (t.block = Block.reset) = true :=
  ⟨rfl, exists_of_reaches (by decide +kernel), exists_of_reaches (by decide +kernel)⟩

theorem witness_ConfiguredBlocksNeverFault :
    FullyConfigured ready.block ∧ Safe ready ∧
    ∀ i ∈ [Instr.sysSetfs 0 4, .envProcess 2, .oscProcess 0], i.wellFormed = true ∧ ∀ inst v, i = .sysSetfs inst v → 0 < v := by
  refine ⟨ready_configured, rfl, fun i hi => ?_⟩
  simp only [List.mem_cons, List.not_mem_nil, or_false] at hi
  rcases hi with rfl | rfl | rfl
  · exact ⟨by decide, fun inst v h => by cases h; decide +kernel⟩
  · exact ⟨by decide, fun inst v h => by cases h⟩
  · exact ⟨by decide, fun inst v h => by cases h⟩

theorem witness_StatusReportsTheRecord :
    ready.block.sys.fault = none ∧ halted.block.sys.fault = some ⟨.unconfigured, 0x2200⟩ ∧ (1 : Nibble) ≠ 0 ∧
    (15 : Nibble) ≠ 0 ∧ Safe ready := by decide +kernel

theorem witness_SetfsWritesAPositiveRate : Safe ready ∧ (0 : NUM) < 1 / 2 ∧ (0 : NUM) ≤ 0 := by decide +kernel

/-- At the threshold itself, and one below it. -/
theorem witness_ThresholdIsTheWindowInCalls :
    1 ≤ 3 ∧ (3 / 1000 : NUM) * 1000 ≤ (3 : Nat) ∧ ¬ (3 / 1000 : NUM) * 1000 ≤ (2 : Nat) := by decide +kernel

theorem witness_EdgeInitClearsTheDetector : (3 : Nibble).toNat < 4 ∧ (0 : Nibble).toNat < 4 ∧ Safe ready := by decide +kernel

/-- A reading equal to LEVEL; one that reaches the threshold; one that stays a call short; RATE unwritten. -/
theorem witness_DebounceCountsDifferingReadings :
    (3 : Nibble).toNat < 4 ∧ Safe ready ∧ ready.block.edge[(3 : Nibble).toNat].rate = some 1000 ∧
    ready.block.edge[(3 : Nibble).toNat].level = false ∧ threshold ready.window 1000 = ready.block.edge[(3 : Nibble).toNat].cnt + 1 ∧
    (ready ⟨some 1000, false, 1, false⟩).block.edge[(3 : Nibble).toNat].cnt + 2 = threshold ready.window 1000 ∧
    State.reset.block.edge[(3 : Nibble).toNat].rate = none ∧ Safe State.reset := by decide +kernel

theorem witness_RisingAnswersAndClearsTheFlag : (3 : Nibble).toNat < 4 ∧ Safe ready := by decide +kernel

/-- Threshold 1, no reading before: the one reading moves LEVEL. -/
theorem witness_LevelMovesOnlyAfterThresholdEqualReadings :
    (0 : Nibble).toNat < 4 ∧ Safe ready ∧
    (∀ again, Instr.edgeInit 0 again ∉ [] ++ [Instr.edgeDebounce 0 true]) ∧
    reaches (execAll [.edgeInit 0 2] ready) (fun t => reaches (exec (.edgeDebounce 0 true) t) (fun u =>
      u.block.edge[(0 : Nibble).toNat].level ≠ t.block.edge[(0 : Nibble).toNat].level)) = true :=
  ⟨by decide, rfl, by simp, by decide +kernel⟩

/-- Threshold 2, the calling pattern of RUNBLOCK: EDGE.RISING and operations of other units and instances stand between the two
readings. -/
theorem witness_level_moves_among_other_operations :
    (∀ again, Instr.edgeInit 0 again ∉
      [Instr.edgeDebounce 0 true, .edgeRising 0, .edgeDebounce 1 true, .envTrigger 0, .noiseProcess 0] ++
        [.edgeDebounce 0 true]) ∧
    reaches (execAll (.edgeInit 0 (2000 / 3) ::
        [.edgeDebounce 0 true, .edgeRising 0, .edgeDebounce 1 true, .envTrigger 0, .noiseProcess 0]) ready) (fun t =>
      reaches (exec (.edgeDebounce 0 true) t) (fun u =>
        u.block.edge[(0 : Nibble).toNat].level ≠ t.block.edge[(0 : Nibble).toNat].level)) = true :=
  ⟨by simp, by decide +kernel⟩

/-- One call short of the threshold, at it, and one past it. -/
theorem witness_HeldPinRaisesOneEdge :
    (3 : Nibble).toNat < 4 ∧ Safe ready ∧ 2 < threshold ready.window 1000 ∧ 3 = threshold ready.window 1000 ∧
    ¬ 4 < threshold ready.window 1000 ∧ 4 ≠ threshold ready.window 1000 := by decide +kernel

/-- The edge of `ready` with LEVEL and RISE 1; threshold 1, so a fall and a rise are one reading each. -/
theorem witness_RisingAnswersOncePerMove :
    (0 : Nibble).toNat < 4 ∧ BlockInv (ready ⟨some 1, true, 0, true⟩).window (ready ⟨some 1, true, 0, true⟩).block ∧
    reaches (exec (.edgeRising 0) (ready ⟨some 1, true, 0, true⟩)) (fun t => t.resp = some (.bit true) ∧
      reaches (execAll [.edgeDebounce 0 false, .edgeDebounce 0 true] t) (fun u =>
        reaches (exec (.edgeRising 0) u) (fun v => v.resp = some (.bit true)))) = true := by
  refine ⟨by decide, ?_, by decide +kernel⟩
  constructor
  · intro v h
    cases h
    decide +kernel
  · intro i
    have hi : (ready ⟨some 1, true, 0, true⟩).block.edge[i] = ⟨some 1, true, 0, true⟩ := by revert i; decide +kernel
    rw [hi]
    exact ⟨by decide +kernel, fun _ => rfl⟩
  · decide +kernel
  · decide +kernel
  · decide

theorem witness_EnvelopeConfigurationWrites : (2 : Nibble).toNat < 3 ∧ (0 : Nibble).toNat < 3 ∧ Safe State.reset := by
  decide +kernel

theorem witness_TriggerRestartsTheAttack : (2 : Nibble).toNat < 3 ∧ Safe State.reset := by decide +kernel

/-- Idle; Attack at its last call and one before; Decay at its last call and one before; MAX unwritten. -/
theorem witness_EnvelopeProcessFollowsTheStage :
    (2 : Nibble).toNat < 3 ∧ Safe ready ∧ ready.block.sys.fs = some 8 ∧ ready.block.env[(2 : Nibble).toNat] = envAt .attack 1 ∧
    (envAt .idle 0).stage = .idle ∧
    ((1 / 2 : NUM) * 8 ≤ ((envAt .attack 3).elapsed + 1 : Nat)) ∧ (((envAt .attack 2).elapsed + 1 : Nat) < (1 / 2 : NUM) * 8) ∧
    ((1 : NUM) * 8 ≤ ((envAt .decay 7).elapsed + 1 : Nat)) ∧ (((envAt .decay 6).elapsed + 1 : Nat) < (1 : NUM) * 8) ∧
    Safe State.reset ∧ State.reset.block.env[(2 : Nibble).toNat].max = none := by decide +kernel

theorem witness_EnvelopeValuesStayInRange :
    (2 : Nibble).toNat < 3 ∧ ready.block.env[(2 : Nibble).toNat].min = some 0 ∧
    ready.block.env[(2 : Nibble).toNat].max = some (3 / 4) ∧
    (∃ t, exec (.envProcess 2) ready = .next t ∧ decide (t.resp = some (.num (3 / 8))) = true) ∧
    ∃ t, exec (.envProcess 2) (ready (v := envAt .idle 0)) = .next t ∧ decide (t.resp = some (.num 0)) = true :=
  ⟨by decide, rfl, rfl, exists_of_reaches (by decide +kernel), exists_of_reaches (by decide +kernel)⟩

/-- `A = 4` with the prior value 9/16 of 95_test_vectors.md 1.6; and a zero-length attack. -/
theorem witness_RetriggerRestartsFromMin :
    (2 : Nibble).toNat < 3 ∧ Safe ready ∧ ready.block.sys.fs = some 8 ∧ ready.block.env[(2 : Nibble).toNat] = envAt .attack 1 ∧
    (1 : NUM) < 1 / 2 * 8 ∧ 2 * |(3 / 4 : NUM) - 0| / (1 / 2 * 8) < |(9 / 16 : NUM) - 0| ∧ (0 : NUM) ≤ 0 ∧ (0 : NUM) < 8 := by
  refine ⟨by decide, rfl, rfl, rfl, ?_⟩
  norm_num [abs_of_pos]

/-- `A = 1` exactly; `D = 1` exactly in Decay; both times not above 0. -/
theorem witness_ZeroLengthSegmentsTakeOneCall :
    (2 : Nibble).toNat < 3 ∧ Safe (ready (v := ⟨some (1 / 8), some (1 / 8), some 0, some 1, .decay, 0⟩)) ∧
    (ready (v := ⟨some (1 / 8), some (1 / 8), some 0, some 1, .decay, 0⟩)).block.sys.fs = some 8 ∧
    (ready (v := ⟨some (1 / 8), some (1 / 8), some 0, some 1, .decay, 0⟩)).block.env[(2 : Nibble).toNat] =
      ⟨some (1 / 8), some (1 / 8), some 0, some 1, .decay, 0⟩ ∧
    (1 / 8 : NUM) * 8 ≤ 1 ∧ (-1 : NUM) ≤ 0 ∧ (0 : NUM) ≤ 0 ∧ (0 : NUM) < 8 := by decide +kernel

/-- `nA = 4`, `nD = 8`: calls 1, 3, 4, 5, 11 and 12 stand at the ends of the clauses. -/
theorem witness_FullEnvelopeLengthAndValues :
    (2 : Nibble).toNat < 3 ∧ Safe ready ∧ ready.block.sys.fs = some 8 ∧ ready.block.env[(2 : Nibble).toNat] = envAt .attack 1 ∧
    (max 1 ⌈(1 / 2 : NUM) * 8⌉).toNat = 4 ∧ (max 1 ⌈(1 : NUM) * 8⌉).toNat = 8 ∧
    1 ≤ 1 ∧ 3 < 4 ∧ 4 < 5 ∧ 11 < 4 + 8 ∧ 4 + 8 ≤ 12 := by decide +kernel

/-- The trigger, and the two completing calls. -/
theorem witness_StageMovesAsTheStateMachineSays :
    (∃ t, exec (.envTrigger 1) (ready (v := envAt .idle 0)) = .next t ∧
      decide (t.block.env[(1 : Fin 3)].stage ≠ (ready (v := envAt .idle 0)).block.env[(1 : Fin 3)].stage) = true) ∧
    (∃ t, exec (.envProcess 1) (ready (v := envAt .attack 3)) = .next t ∧
      decide (t.block.env[(1 : Fin 3)].stage ≠ (ready (v := envAt .attack 3)).block.env[(1 : Fin 3)].stage) = true) ∧
    ∃ t, exec (.envProcess 1) (ready (v := envAt .decay 7)) = .next t ∧
      decide (t.block.env[(1 : Fin 3)].stage ≠ (ready (v := envAt .decay 7)).block.env[(1 : Fin 3)].stage) = true :=
  ⟨exists_of_reaches (by decide +kernel), exists_of_reaches (by decide +kernel), exists_of_reaches (by decide +kernel)⟩

theorem witness_OscillatorSetters : Safe State.reset := by decide +kernel

theorem witness_OscillatorProcessAdvancesThenEvaluates :
    Safe ready ∧ ready.block.sys.fs = some 8 ∧ (0 : NUM) < 8 ∧ ready.block.osc.wave = some .triangle ∧ ready.block.osc.freq = some 1 ∧
    ready.block.osc.amp = some (1 / 2) ∧ Safe State.reset ∧ State.reset.block.osc.amp = none := by decide +kernel

theorem ready_inv : Inv ready := by
  refine ⟨?_, by decide⟩
  constructor
  · intro v h
    cases h
    decide +kernel
  · intro i
    have hi : ready.block.edge[i] = ⟨some 1000, false, 2, false⟩ := by revert i; decide +kernel
    rw [hi]
    exact ⟨by decide +kernel, by simp⟩
  · decide +kernel
  · decide +kernel
  · decide

/-- The ends of the phase's range; a state and a sample for each of the two clauses on AMP. -/
theorem witness_WavePeaksAtOneAndAmpScalesIt :
    (0 : NUM) ≤ 0 ∧ (0 : NUM) < 1 ∧ (0 : NUM) ≤ 3 / 4 ∧ (3 / 4 : NUM) < 1 ∧ Inv ready ∧
    ready.block.osc.amp = some (1 / 2) ∧
    reaches (exec (.oscProcess 0) ready) (fun t => t.resp = some (.num 0)) = true ∧
    Safe ready ∧ ready.block.sys.fs = some 8 ∧ (0 : NUM) < 8 ∧ ready.block.osc.wave = some .triangle ∧
    ready.block.osc.freq = some 1 :=
  ⟨by decide +kernel, by decide +kernel, by decide +kernel, by decide +kernel, ready_inv, rfl, by decide +kernel, rfl, rfl,
    by decide +kernel, rfl, rfl⟩

/-- 95_test_vectors.md 3.2: `inc = 3/8`, back after 8 calls. -/
theorem witness_PhaseReturnsAfterTheDenominator :
    Safe ready ∧ 0 ≤ ready.block.osc.phase ∧ ready.block.osc.phase < 1 ∧ ready.block.sys.fs = some 8 ∧ (0 : NUM) < 8 ∧
    ready.block.osc.wave = some .triangle ∧ ready.block.osc.freq = some 1 ∧ ready.block.osc.amp = some (1 / 2) ∧
    ((3 : NUM) / 8).den ∣ 8 ∧ ¬ ((3 : NUM) / 8).den ∣ 7 := by decide +kernel

theorem witness_ShiftDropsBitZeroAndFeedsBitFifteen : 0 < 15 ∧ 14 < 15 := by decide

theorem witness_SeedLoadsTheRegister : Safe ready ∧ (0x0000 : Word) = 0x0000 ∧ (0xFFFF : Word) ≠ 0x0000 := by decide +kernel

theorem witness_NoiseProcessShiftsSixteenTimes : Safe State.reset := by decide +kernel

theorem witness_NoiseNeverLocksUpAndStaysInRange :
    (0x8000 : Word) ≠ 0 ∧ State.reset.block.noise.lfsr ≠ 0 ∧ ∃ t, exec (.noiseProcess 0) State.reset = .next t ∧
      decide (t.block.noise.lfsr = 0x4722) = true :=
  ⟨by decide, by decide, exists_of_reaches (by decide +kernel)⟩

theorem witness_SetmodeWritesTheMode : Safe State.reset := by decide +kernel

theorem witness_MixProcessFollowsTheMode :
    Safe (ready) ∧ ready.block.mix.mode = .observed ∧ (ready (m := .average)).block.mix.mode = .average ∧
    Safe (ready (m := .average)) := by decide +kernel

theorem witness_MixHeadroom : |(-1 : NUM)| ≤ 1 ∧ (0 : NUM) ≤ 1 ∧ (1 : NUM) ≤ 1 ∧ |(1 : NUM)| ≤ 1 := by norm_num

/-- The last slot, and the first that does not exist. -/
theorem witness_OutReadsWhatWasWritten :
    Memory.wf ⟨4, [(0, 1), (3, 2)]⟩ ∧ 3 < (⟨4, [(0, 1), (3, 2)]⟩ : Memory).size ∧ (⟨4, [(0, 1), (3, 2)]⟩ : Memory).size ≤ 4 := by
  decide +kernel

/-- A command placed before the rest of a RUNBLOCK, and a line of the program. -/
theorem witness_StepRunsTheDecodedOperation :
    decode ⟨0x2120, []⟩ = .ok (.envTrigger 2) ∧ (∀ later, (ready.withCommand ⟨0x2120, []⟩).resets ≠ 0 :: later) ∧
    (ready.withCommand ⟨0x2120, []⟩).issuer.block = commandAction ⟨0x2120, []⟩ :: [] ∧
    (∃ t, exec (.envTrigger 2) { ready.withCommand ⟨0x2120, []⟩ with
      resets := tick []
      issuer := { (ready.withCommand ⟨0x2120, []⟩).issuer with block := [] } } = .next t) ∧
    (∀ later, atLine.resets ≠ 0 :: later) ∧ atLine.issuer.block = [] ∧
    atLine.issuer.program = .line { cw := 0x2120, operands := (([] : List Value)).map .lit } :: [] ∧
    ∃ t, exec (.envTrigger 2) { atLine with resets := tick [3], issuer := { atLine.issuer with program := [] } } = .next t :=
  ⟨rfl, by simp [State.withCommand], rfl, ⟨_, rfl⟩, by simp [atLine], rfl, rfl, ⟨_, rfl⟩⟩

theorem witness_ResetEventRestoresTheResetValues : ({ halted with resets := [0, 7] } : State).resets = 0 :: [7] := by decide

theorem witness_EveryStepKeepsTheInvariant : Inv ready ∧ ∃ t, step ready = .next t := ⟨ready_inv, _, rfl⟩

/-- INST 3 of EDGE against instance 0, ENV against EDGE. -/
theorem witness_OperationsTouchOnlyTheirInstance :
    (∃ t, exec (.edgeRising 3) ready = .next t) ∧ (Instr.edgeRising 3).inst.toNat ≠ (0 : Fin 4).val ∧
    (∃ t, exec (.envTrigger 0) ready = .next t) ∧ (Instr.envTrigger 0).unit ≠ .edge :=
  ⟨⟨_, rfl⟩, by decide, ⟨_, rfl⟩, by decide⟩

theorem witness_StatusAndMixAreIdempotent : Safe ready := by decide +kernel

/-- Two instances of one unit, and two units. -/
theorem witness_OperationsOnDifferentInstancesCommute :
    (Instr.edgeDebounce 0 true).unit ≠ .sys ∧ (Instr.envProcess 1).unit ≠ .sys ∧
    (Instr.edgeDebounce 0 true).unit ≠ (Instr.envProcess 1).unit ∧ (Instr.edgeDebounce 0 true).inst ≠ (Instr.edgeRising 3).inst ∧
    reaches (exec (.edgeDebounce 0 true) ready) (fun t => decide (Safe t) &&
      reaches (exec (.envProcess 1) t) (fun u => decide (Safe u)) && reaches (exec (.edgeRising 3) t) (fun u => decide (Safe u))) =
      true := by decide +kernel

theorem witness_InitialisationConfiguresTheBlock : Safe State.reset ∧ (0 : NUM) < 1 / 2 := by decide +kernel

theorem witness_RunBlockDebouncesThenTriggers :
    Safe beforeRunBlock ∧ Configured beforeRunBlock.block ∧ beforeRunBlock.resets = [] ∧ beforeRunBlock.issuer.block = [] ∧
    beforeRunBlock.issuer.program = .runBlock #v[true, false, false, true] [(0, 1 / 2)] :: [] ∧ [((0 : NUM), (1 / 2 : NUM))] ≠ [] :=
  ⟨rfl, ready_configured.toConfigured, rfl, rfl, rfl, by simp⟩

/-- The only frame of a buffer of two slots. -/
theorem witness_SampleLoopWritesOneFrame :
    Safe atSample ∧ atSample.resets = [] ∧ atSample.out.wf ∧ 2 * 0 + 1 < atSample.out.size ∧
    atSample.issuer.block = sampleLoop 0 0 (1 / 2) ++ [] ∧
    atSample.block.sys.fs = some 8 ∧ (0 : NUM) < 8 ∧ atSample.block.osc.wave = some .triangle ∧
    ∀ j : Fin 3, atSample.block.env[j].attack = some (1 / 2) ∧ atSample.block.env[j].decay = some 1 ∧
      atSample.block.env[j].min = some 0 ∧ atSample.block.env[j].max = some (3 / 4) := by decide +kernel

/-- The hypotheses of `RunBlockDebouncesThenTriggers`, and a sample index below the count. -/
theorem witness_RunBlockWritesEverySlot :
    Safe beforeRunBlock ∧ Configured beforeRunBlock.block ∧ beforeRunBlock.resets = [] ∧ beforeRunBlock.issuer.block = [] ∧
    beforeRunBlock.issuer.program = .runBlock #v[true, false, false, true] [(0, 1 / 2)] :: [] ∧
    [((0 : NUM), (1 / 2 : NUM))] ≠ [] ∧ 0 < [((0 : NUM), (1 / 2 : NUM))].length :=
  ⟨rfl, ready_configured.toConfigured, rfl, rfl, rfl, by simp, by simp⟩

/-- A line of RUNBLOCK with names: ENV.PROCESS 0 -> f of an unconfigured block. -/
theorem witness_RunBlockStopsAtAFault_named :
    ({ State.reset with issuer := { State.reset.issuer with block := sampleLoop 0 0 0 } } : State).issuer.block =
      .issue { cw := 0x2200, bind := [.f] } :: (sampleLoop 0 0 0).tail ∧
    Safe ({ State.reset with issuer := { State.reset.issuer with block := sampleLoop 0 0 0 } } : State) ∧
    reaches (step { State.reset with issuer := { State.reset.issuer with block := sampleLoop 0 0 0 } }) (fun t =>
      t.block.sys.fault = some ⟨.unconfigured, 0x2200⟩) = true :=
  ⟨by decide, rfl, by decide +kernel⟩

theorem witness_RunBlockStopsAtAFault :
    (ready.withCommand ⟨0xFFFF, []⟩).resets = [] ∧ Safe (ready.withCommand ⟨0xFFFF, []⟩) ∧
    (ready.withCommand ⟨0xFFFF, []⟩).issuer.block = .issue { cw := 0xFFFF } :: [] ∧
    ∃ t, step (ready.withCommand ⟨0xFFFF, []⟩) = .next t ∧ decide (t.block.sys.fault.isSome = true) = true :=
  ⟨rfl, rfl, rfl, exists_of_reaches (by decide +kernel)⟩

end Sys2Proof.Tests
end

section
/-! Totality of an operation and of a raw command (00_scope.md R13, 60_exceptions.md R216), and what a step does with the command of
the next action or the next line (45_system_and_sequencer.md R193). -/

namespace Sys2Proof.Machine

/-! ### Every operation ends in a next state -/

/-- The model gives every operation a next state: a halted block answers or ignores it, a missing instance faults, and an
existing one faults or completes. -/
theorem exec_total (i : Instr) (s : State) : ∃ t, exec i s = .next t := by
  cases hs : s.block.sys.fault with
  | some r =>
    by_cases hi : i = .sysStatus 0
    · exact ⟨_, hi ▸ exec_status s⟩
    · exact ⟨_, exec_ignored (by simp [hs]) hi⟩
  | none =>
    rcases Nat.lt_or_ge i.inst.toNat i.unit.count with hi | hi
    · rcases exec_performs hs hi with ⟨_, _, -, -, h⟩ | ⟨-, h⟩ | ⟨-, -, t, h, -⟩
      · exact ⟨_, h⟩
      · exact ⟨_, h⟩
      · exact ⟨t, h⟩
    · exact ⟨_, exec_missing hs hi⟩

/-! ### One command, by the decoder's verdict -/

theorem execute_of_decode {c : Command} {i : Instr} (h : decode c = .ok i) (s : State) : execute c s = exec i s := by
  rw [execute, h]

theorem execute_rejected_of_halted {c : Command} {e : Reject} {s : State} (h : decode c = .error e)
    (hs : s.block.sys.fault.isSome) : execute c s = .next s.ignored := by
  cases e <;> rw [execute, h] <;> simp [hs]

theorem execute_of_reserved {c : Command} {s : State} (h : decode c = .error .reserved) (hs : Safe s) :
    execute c s = .next (s.raise .illegalCommand c.cw) := by
  rw [execute, h]
  simp [hs]

theorem execute_of_wrongOperands {c : Command} {s : State} (h : decode c = .error .wrongOperands) (hs : Safe s) :
    execute c s = .refused .wrongOperands := by
  rw [execute, h]
  simp [hs]

/-- Settles O15: an operation by `exec_total`, a raw command by the decoder's verdict and whether the block is halted. -/
theorem everyOperationEndsInANextState : Obligations.EveryOperationEndsInANextState := by
  refine ⟨exec_total, fun c s => ?_⟩
  cases hd : decode c with
  | ok i => exact .inl (execute_of_decode hd s ▸ exec_total i s)
  | error e =>
    cases hs : s.block.sys.fault with
    | some r => exact .inl ⟨_, execute_rejected_of_halted hd (by simp [hs])⟩
    | none =>
      cases e with
      | reserved => exact .inl ⟨_, execute_of_reserved hd hs⟩
      | wrongOperands => exact .inr ⟨hs, rfl, execute_of_wrongOperands hd hs⟩

/-! ### A line whose operands are written out -/

/-- A line that binds no name leaves the names alone; a RUNBLOCK in progress stops once the block is halted. -/
theorem State.endLine_of_bind_nil (s : State) {l : Line} (h : l.bind = []) :
    s.endLine l = { s with issuer := { s.issuer with block := if s.block.sys.fault.isSome then [] else s.issuer.block } } := by
  simp [State.endLine, h, bindAll]

/-- A line with its operands written out runs the operation its command decodes to, then ends. -/
theorem issueLine_of_decode {c : Command} {i : Instr} {s t : State} (h : decode c = .ok i) (ht : exec i s = .next t) :
    issueLine { cw := c.cw, operands := c.operands.map .lit } s =
      .next { t with issuer := { s.issuer with block := if t.block.sys.fault.isSome then [] else s.issuer.block } } := by
  have hissuer : t.issuer = s.issuer := (exec_outside ht).2.1
  simp only [issueLine, condition, resolve_literals, if_true, execute_of_decode h, ht, andThen_next]
  rw [State.endLine_of_bind_nil t rfl, hissuer]

/-! ### What a step with no reset due does next -/

theorem step_of_block {s : State} {a : Action} {rest : List Action} (hdue : ∀ later, s.resets ≠ 0 :: later)
    (hb : s.issuer.block = a :: rest) :
    step s = perform a { s with resets := tick s.resets, issuer := { s.issuer with block := rest } } := by
  simp only [step_of_not_due hdue, issuerStep, hb]

theorem step_of_line {s : State} {l : Line} {rest : List Item} (hdue : ∀ later, s.resets ≠ 0 :: later)
    (hb : s.issuer.block = []) (hp : s.issuer.program = .line l :: rest) :
    step s = perform (.issue l) { s with resets := tick s.resets, issuer := { s.issuer with program := rest } } := by
  simp only [step_of_not_due hdue, issuerStep, hb, hp]

/-- Settles O48: the step performs the issuer's next line, which runs the decoded operation (`issueLine_of_decode`); outside a
RUNBLOCK there is no rest to drop. -/
theorem stepRunsTheDecodedOperation : Obligations.StepRunsTheDecodedOperation := by
  intro s t c i hdue hd
  refine ⟨fun rest hb ht => ?_, fun rest hb hp ht => ?_⟩
  · rw [step_of_block hdue hb]
    exact issueLine_of_decode hd ht
  · rw [step_of_line hdue hb hp, perform, issueLine_of_decode hd ht]
    simp [hb]

end Sys2Proof.Machine
end

section
/-! The reset values (10_state.md R45), the invariant of the registers and of OUT kept by every step (R24, R28, R29, R35, R40,
R41), and what an operation leaves as it was (R20, 20_memory.md R60). -/

namespace Sys2Proof.Machine

/-! ### The registers after reset -/

theorem Block.reset_edge (i : Fin nEdge) : Block.reset.edge[i] = .reset := by
  fin_cases i <;> rfl

theorem Block.reset_env (j : Fin nEnv) : Block.reset.env[j] = .reset := by
  fin_cases j <;> rfl

/-- Settles O50: every EDGE and ENV instance holds its unit's reset registers. -/
theorem resetValues : Obligations.ResetValues := by
  refine ⟨rfl, rfl, fun i => ?_, fun j => ?_, rfl, rfl, rfl, rfl, rfl, rfl⟩
  · have h : State.reset.block.edge[i] = .reset := Block.reset_edge i
    rw [h]
    exact ⟨rfl, rfl, rfl, rfl⟩
  · have h : State.reset.block.env[j] = .reset := Block.reset_env j
    rw [h]
    exact ⟨rfl, rfl, rfl, rfl, rfl, rfl⟩

/-! ### The invariant of one edge detector -/

theorem EdgeInv.of_rate {window rate : NUM} {e : EdgeRegs} (hrate : e.rate = some rate)
    (hcnt : e.cnt < threshold window rate) (hrise : e.rise = true → e.level = true) : EdgeInv window e :=
  ⟨by rw [hrate]; exact hcnt, hrise⟩

theorem EdgeInv.reset (window : NUM) : EdgeInv window .reset :=
  ⟨rfl, id⟩

/-- EDGE.INIT leaves CNT at 0, which is below every threshold. -/
theorem EdgeInv.init (window rate : NUM) : EdgeInv window ⟨some rate, false, 0, false⟩ :=
  .of_rate rfl (one_le_threshold window rate) id

theorem EdgeInv.clearRise {window : NUM} {e : EdgeRegs} (h : EdgeInv window e) : EdgeInv window { e with rise := false } :=
  ⟨h.cnt, nofun⟩

/-- Everything a debounce can do: the reading equals LEVEL, it moves LEVEL, or it is counted. -/
theorem EdgeRegs.debounce_cases (e : EdgeRegs) (raw : Bool) (thr : Nat) :
    (raw = e.level ∧ e.debounce raw thr = { e with cnt := 0, rise := false }) ∨
    (raw ≠ e.level ∧ thr ≤ e.cnt + 1 ∧ e.debounce raw thr = { e with level := raw, cnt := 0, rise := raw }) ∨
    (raw ≠ e.level ∧ e.cnt + 1 < thr ∧ e.debounce raw thr = { e with cnt := e.cnt + 1, rise := false }) := by
  unfold EdgeRegs.debounce
  split
  · exact .inl ⟨‹_›, rfl⟩
  · split
    · exact .inr (.inl ⟨‹_›, ‹_›, rfl⟩)
    · exact .inr (.inr ⟨‹_›, Nat.lt_of_not_le ‹_›, rfl⟩)

/-- A debounce establishes the invariant: CNT is 0 or was just found below the threshold, and RISE is set only as LEVEL takes
the value 1. -/
theorem EdgeInv.debounce {window rate : NUM} {e : EdgeRegs} (hrate : e.rate = some rate) (raw : Bool) :
    EdgeInv window (e.debounce raw (threshold window rate)) := by
  have hthr := one_le_threshold window rate
  rcases e.debounce_cases raw (threshold window rate) with ⟨-, h⟩ | ⟨-, -, h⟩ | ⟨-, hcnt, h⟩ <;> rw [h]
  · exact .of_rate hrate hthr nofun
  · exact .of_rate hrate hthr id
  · exact .of_rate hrate hcnt nofun

/-! ### The invariant of one envelope -/

/-- Everything ENV.PROCESS can do to the registers: nothing in Idle, else begin a stage at its first sample or stay in the stage
and count one sample. -/
theorem EnvRegs.process_cases (e : EnvRegs) (a d lo hi : NUM) :
    (e.process a d lo hi).1 = e ∨
    (∃ stage, (e.process a d lo hi).1 = { e with stage := stage, elapsed := 0 }) ∨
    (e.stage ≠ .idle ∧ (e.process a d lo hi).1 = { e with elapsed := e.elapsed + 1 }) := by
  cases hs : e.stage with
  | idle => exact .inl (by simp only [EnvRegs.process, hs])
  | attack =>
    by_cases hend : a ≤ (e.elapsed + 1 : Nat)
    · exact .inr (.inl ⟨.decay, by simp only [EnvRegs.process, hs, if_pos hend]⟩)
    · exact .inr (.inr ⟨nofun, by simp only [EnvRegs.process, hs, if_neg hend]⟩)
  | decay =>
    by_cases hend : d ≤ (e.elapsed + 1 : Nat)
    · exact .inr (.inl ⟨.idle, by simp only [EnvRegs.process, hs, if_pos hend]⟩)
    · exact .inr (.inr ⟨nofun, by simp only [EnvRegs.process, hs, if_neg hend]⟩)

theorem EnvInv.process {e : EnvRegs} (he : EnvInv e) (a d lo hi : NUM) : EnvInv (e.process a d lo hi).1 := by
  rcases e.process_cases a d lo hi with h | ⟨stage, h⟩ | ⟨hs, h⟩ <;> rw [h]
  · exact he
  · exact fun _ => rfl
  · exact fun hidle => absurd hidle hs

/-! ### The noise register never becomes zero -/

theorem lfsrFeedback_eq (l : Word) :
    lfsrFeedback l = (l.getLsbD 0 ^^ l.getLsbD 2 ^^ l.getLsbD 3 ^^ l.getLsbD 5) := by
  simp [lfsrFeedback, Config.lfsrTaps]

/-- The bits of a shift: the feedback bit enters at bit 15, and every other bit comes from the next higher one. -/
theorem getLsbD_lfsrStep (l : Word) {k : Nat} (hk : k < 16) :
    (lfsrStep l).getLsbD k = if k = 15 then lfsrFeedback l else l.getLsbD (k + 1) := by
  rw [lfsrStep, BitVec.getLsbD_or, BitVec.getLsbD_ushiftRight, BitVec.getLsbD_shiftLeft, Nat.add_comm 1 k]
  split
  · rename_i h15
    subst h15
    simp
  · have h : k < 15 := by omega
    simp [h]

/-- A shift to zero starts from zero: bits 1 to 15 have moved down, and with them zero the feedback bit is bit 0. -/
theorem eq_zero_of_lfsrStep_eq_zero {l : Word} (h : lfsrStep l = 0#16) : l = 0#16 := by
  have hbit : ∀ k < 16, (if k = 15 then lfsrFeedback l else l.getLsbD (k + 1)) = false := fun k hk => by
    rw [← getLsbD_lfsrStep l hk, h, BitVec.getLsbD_zero]
  have hhigh : ∀ k, 0 < k → k < 16 → l.getLsbD k = false := fun k h0 hk => by
    have := hbit (k - 1) (by omega)
    rwa [if_neg (by omega), Nat.sub_add_cancel h0] at this
  have hlow : l.getLsbD 0 = false := by
    have hfeedback : lfsrFeedback l = false := hbit 15 (by omega)
    rwa [lfsrFeedback_eq, hhigh 2 (by omega) (by omega), hhigh 3 (by omega) (by omega), hhigh 5 (by omega) (by omega),
      Bool.xor_false, Bool.xor_false, Bool.xor_false] at hfeedback
  refine BitVec.eq_of_getLsbD_eq fun k hk => ?_
  rw [BitVec.getLsbD_zero]
  rcases Nat.eq_zero_or_pos k with rfl | h0
  · exact hlow
  · exact hhigh k h0 hk

theorem lfsrShift_ne_zero (n : Nat) {l : Word} (h : l ≠ 0) : lfsrShift n l ≠ 0 := by
  induction n generalizing l with
  | zero => exact h
  | succ n ih => exact ih (mt eq_zero_of_lfsrStep_eq_zero h)

/-! ### The invariant of the registers, one rule per update -/

/-- The block after reset meets the invariant, whatever the window is. -/
theorem BlockInv.reset (window : NUM) : BlockInv window .reset where
  fs := nofun
  edge i := Block.reset_edge i ▸ .reset window
  env j := Block.reset_env j ▸ fun _ => rfl
  phase := ⟨le_refl 0, zero_lt_one⟩
  lfsr := by decide

section
variable {window : NUM} {b : Block} (hb : BlockInv window b)
include hb

theorem BlockInv.setFault (f : FaultRecord) :
    BlockInv window { b with sys := { b.sys with fault := some f } } :=
  ⟨hb.fs, hb.edge, hb.env, hb.phase, hb.lfsr⟩

theorem BlockInv.setFs {v : NUM} (hv : 0 < v) : BlockInv window { b with sys := { b.sys with fs := some v } } :=
  ⟨fun _ h => Option.some.inj h ▸ hv, hb.edge, hb.env, hb.phase, hb.lfsr⟩

theorem BlockInv.setEdge (i : Fin nEdge) {e : EdgeRegs} (he : EdgeInv window e) : BlockInv window (b.setEdge i e) := by
  refine ⟨hb.fs, fun k => ?_, hb.env, hb.phase, hb.lfsr⟩
  rw [edge_setEdge]
  split
  · exact he
  · exact hb.edge k

theorem BlockInv.setEnv (j : Fin nEnv) {e : EnvRegs} (he : EnvInv e) : BlockInv window (b.setEnv j e) := by
  refine ⟨hb.fs, hb.edge, fun k => ?_, hb.phase, hb.lfsr⟩
  rw [env_setEnv]
  split
  · exact he
  · exact hb.env k

theorem BlockInv.setOsc {o : OscRegs} (ho : 0 ≤ o.phase ∧ o.phase < 1) : BlockInv window { b with osc := o } :=
  ⟨hb.fs, hb.edge, hb.env, ho, hb.lfsr⟩

theorem BlockInv.setNoise {n : NoiseRegs} (hn : n.lfsr ≠ 0) : BlockInv window { b with noise := n } :=
  ⟨hb.fs, hb.edge, hb.env, hb.phase, hn⟩

theorem BlockInv.setMix (m : MixRegs) : BlockInv window { b with mix := m } :=
  ⟨hb.fs, hb.edge, hb.env, hb.phase, hb.lfsr⟩

end

/-- A seed is never loaded as zero. -/
theorem loadedSeed_ne_zero (seed : Word) : (if seed = 0 then Config.lfsrSeed else seed) ≠ 0 := by
  split
  · decide
  · assumption

/-! ### The invariant is kept -/

theorem Completes.keeps_blockInv {i : Instr} {s t : State} (h : Completes i s t) (hb : BlockInv s.window s.block) :
    BlockInv s.window t.block := by
  cases i <;> simp only [Completes] at h
  case sysStatus | mixProcess => subst h; exact hb
  case sysSetfs => obtain ⟨hv, rfl⟩ := h; exact hb.setFs hv
  case edgeInit => obtain ⟨k, -, rfl⟩ := h; exact hb.setEdge k (.init _ _)
  case edgeDebounce => obtain ⟨k, _, -, hrate, rfl⟩ := h; exact hb.setEdge k (.debounce hrate _)
  case edgeRising => obtain ⟨k, -, rfl⟩ := h; exact hb.setEdge k (hb.edge k).clearRise
  case envSetattack | envSetdecay | envSetmin | envSetmax => obtain ⟨j, -, rfl⟩ := h; exact hb.setEnv j (hb.env j)
  case envTrigger => obtain ⟨j, -, rfl⟩ := h; exact hb.setEnv j fun _ => rfl
  case envProcess => obtain ⟨j, _, _, _, _, _, -, -, -, -, -, -, rfl⟩ := h; exact hb.setEnv j ((hb.env j).process _ _ _ _)
  case oscSetwave | oscSetfreq | oscSetamp => subst h; exact hb.setOsc hb.phase
  case oscProcess =>
    obtain ⟨_, _, _, _, -, -, -, -, rfl⟩ := h
    exact hb.setOsc ⟨frac_nonneg _, frac_lt_one _⟩
  case noiseSeed seed => subst h; exact hb.setNoise (loadedSeed_ne_zero seed)
  case noiseProcess => subst h; exact hb.setNoise (lfsrShift_ne_zero _ hb.lfsr)
  case mixSetmode => subst h; exact hb.setMix _

theorem exec_keeps_blockInv {i : Instr} {s t : State} (h : exec i s = .next t) (hb : BlockInv s.window s.block) :
    BlockInv s.window t.block := by
  rcases exec_inversion h with ⟨-, -, rfl⟩ | ⟨-, -, rfl⟩ | ⟨-, cause, rfl⟩ | ⟨-, -, -, hc⟩
  · exact hb
  · exact hb
  · exact hb.setFault _
  · exact hc.keeps_blockInv hb

theorem execute_keeps_blockInv {c : Command} {s t : State} (h : execute c s = .next t) (hb : BlockInv s.window s.block) :
    BlockInv s.window t.block := by
  rcases execute_inversion h with ⟨i, -, h⟩ | ⟨-, rfl⟩ | ⟨-, -, rfl⟩
  · exact exec_keeps_blockInv h hb
  · exact hb
  · exact hb.setFault _

theorem execute_keeps_inv {c : Command} {s t : State} (h : execute c s = .next t) (hs : Inv s) : Inv t := by
  obtain ⟨hout, -, -, hwindow, -⟩ := execute_outside h
  exact ⟨hwindow ▸ execute_keeps_blockInv h hs.block, hout ▸ hs.out⟩

theorem issueLine_keeps_inv {l : Line} {s t : State} (h : issueLine l s = .next t) (hs : Inv s) : Inv t := by
  rcases issueLine_inversion h with ⟨-, rfl⟩ | ⟨-, ops, u, -, hu, rfl⟩ | ⟨-, rfl⟩
  · exact hs
  · have hu := execute_keeps_inv hu hs
    exact ⟨hu.block, hu.out⟩
  · exact ⟨hs.block, hs.out⟩

theorem perform_keeps_inv {a : Action} {s t : State} (h : perform a s = .next t) (hs : Inv s) : Inv t := by
  rcases perform_inversion h with ⟨l, -, h⟩ | ⟨v, _, b, -, -, rfl⟩ | ⟨slot, _, q, m, -, -, hm, rfl⟩
  · exact issueLine_keeps_inv h hs
  · exact ⟨by simpa using hs.block, by simpa using hs.out⟩
  · exact ⟨hs.block, Memory.write_wf hs.out hm⟩

/-- Settles O51, by what a step can do: a reset event gives the reset registers, an action or a line keeps the invariant
(`perform_keeps_inv`), a RUNBLOCK begins with an empty buffer, and an idle step touches neither. -/
theorem everyStepKeepsTheInvariant : Obligations.EveryStepKeepsTheInvariant := by
  intro s t hs h
  rcases step_inversion h with ⟨later, -, rfl⟩ | ⟨a, rest, -, h⟩ | ⟨-, l, rest, -, h⟩ |
    ⟨-, pins, samples, rest, -, -, rfl⟩ | ⟨-, -, rfl⟩
  · exact ⟨.reset s.window, hs.out⟩
  · exact perform_keeps_inv h ⟨hs.block, hs.out⟩
  · exact perform_keeps_inv h ⟨hs.block, hs.out⟩
  · exact ⟨hs.block, Memory.handedOver_wf samples.length⟩
  · exact ⟨hs.block, hs.out⟩

/-- Settles O52: no clause of the invariant depends on the window in the reset registers. -/
theorem resetMeetsTheInvariant : Obligations.ResetMeetsTheInvariant :=
  ⟨.reset _, Memory.reset_wf⟩

/-! ### The frame of an operation -/

/-- Which registers of a completed operation's unit and instance are new: everything else is the old block's. -/
theorem Completes.block_cases {i : Instr} {s t : State} (h : Completes i s t) :
    t.block = s.block ∨
    (i.unit = .sys ∧ ∃ fs, t.block = { s.block with sys := { s.block.sys with fs := fs } }) ∨
    (i.unit = .edge ∧ ∃ (k : Fin nEdge) (e : EdgeRegs), i.inst.toNat = k.val ∧ t.block = s.block.setEdge k e) ∨
    (i.unit = .env ∧ ∃ (j : Fin nEnv) (e : EnvRegs), i.inst.toNat = j.val ∧ t.block = s.block.setEnv j e) ∨
    (i.unit = .osc ∧ ∃ o, t.block = { s.block with osc := o }) ∨
    (i.unit = .noise ∧ ∃ n, t.block = { s.block with noise := n }) ∨
    (i.unit = .mix ∧ ∃ m, t.block = { s.block with mix := m }) := by
  cases i <;> simp only [Completes] at h
  case sysStatus | mixProcess => subst h; exact .inl rfl
  case sysSetfs => obtain ⟨-, rfl⟩ := h; exact .inr (.inl ⟨rfl, _, rfl⟩)
  case edgeInit | edgeRising => obtain ⟨k, hk, rfl⟩ := h; exact .inr (.inr (.inl ⟨rfl, k, _, hk, rfl⟩))
  case edgeDebounce => obtain ⟨k, _, hk, -, rfl⟩ := h; exact .inr (.inr (.inl ⟨rfl, k, _, hk, rfl⟩))
  case envSetattack | envSetdecay | envSetmin | envSetmax | envTrigger =>
    obtain ⟨j, hj, rfl⟩ := h
    exact .inr (.inr (.inr (.inl ⟨rfl, j, _, hj, rfl⟩)))
  case envProcess =>
    obtain ⟨j, _, _, _, _, _, hj, -, -, -, -, -, rfl⟩ := h
    exact .inr (.inr (.inr (.inl ⟨rfl, j, _, hj, rfl⟩)))
  case oscSetwave | oscSetfreq | oscSetamp =>
    subst h
    exact .inr (.inr (.inr (.inr (.inl ⟨rfl, _, rfl⟩))))
  case oscProcess =>
    obtain ⟨_, _, _, _, -, -, -, -, rfl⟩ := h
    exact .inr (.inr (.inr (.inr (.inl ⟨rfl, _, rfl⟩))))
  case noiseSeed | noiseProcess =>
    subst h
    exact .inr (.inr (.inr (.inr (.inr (.inl ⟨rfl, _, rfl⟩)))))
  case mixSetmode => subst h; exact .inr (.inr (.inr (.inr (.inr (.inr ⟨rfl, _, rfl⟩)))))

/-- `b'` has the registers of `b` outside the unit and instance that `i` names, the fault record apart. -/
structure SameOutside (i : Instr) (b b' : Block) : Prop where
  edge : ∀ k : Fin nEdge, (i.unit ≠ .edge ∨ i.inst.toNat ≠ k.val) → b'.edge[k] = b.edge[k]
  env : ∀ j : Fin nEnv, (i.unit ≠ .env ∨ i.inst.toNat ≠ j.val) → b'.env[j] = b.env[j]
  osc : i.unit ≠ .osc → b'.osc = b.osc
  noise : i.unit ≠ .noise → b'.noise = b.noise
  mix : i.unit ≠ .mix → b'.mix = b.mix
  fs : i.unit ≠ .sys → b'.sys.fs = b.sys.fs

theorem SameOutside.refl (i : Instr) (b : Block) : SameOutside i b b :=
  ⟨fun _ _ => rfl, fun _ _ => rfl, fun _ => rfl, fun _ => rfl, fun _ => rfl, fun _ => rfl⟩

theorem SameOutside.setEdge {i : Instr} {b : Block} {k : Fin nEdge} (e : EdgeRegs) (hu : i.unit = .edge)
    (hk : i.inst.toNat = k.val) : SameOutside i b (b.setEdge k e) where
  __ := SameOutside.refl i b
  edge k' hother := by
    rw [edge_setEdge, if_neg]
    rintro rfl
    exact hother.elim (· hu) (· hk)

theorem SameOutside.setEnv {i : Instr} {b : Block} {j : Fin nEnv} (e : EnvRegs) (hu : i.unit = .env)
    (hj : i.inst.toNat = j.val) : SameOutside i b (b.setEnv j e) where
  __ := SameOutside.refl i b
  env j' hother := by
    rw [env_setEnv, if_neg]
    rintro rfl
    exact hother.elim (· hu) (· hj)

theorem Completes.sameOutside {i : Instr} {s t : State} (h : Completes i s t) : SameOutside i s.block t.block := by
  have hrefl := SameOutside.refl i s.block
  rcases h.block_cases with h | ⟨hu, fs, h⟩ | ⟨hu, k, e, hk, h⟩ | ⟨hu, j, e, hj, h⟩ | ⟨hu, o, h⟩ | ⟨hu, n, h⟩ | ⟨hu, m, h⟩ <;>
    rw [h]
  · exact hrefl
  · exact { hrefl with fs := absurd hu }
  · exact .setEdge e hu hk
  · exact .setEnv e hu hj
  · exact { hrefl with osc := absurd hu }
  · exact { hrefl with noise := absurd hu }
  · exact { hrefl with mix := absurd hu }

theorem exec_sameOutside {i : Instr} {s t : State} (h : exec i s = .next t) : SameOutside i s.block t.block := by
  have hrefl := SameOutside.refl i s.block
  rcases exec_inversion h with ⟨-, -, rfl⟩ | ⟨-, -, rfl⟩ | ⟨-, cause, rfl⟩ | ⟨-, -, -, hc⟩
  · exact hrefl
  · exact hrefl
  · exact { hrefl with }
  · exact hc.sameOutside

/-- Settles O53, by `exec_outside` for what lies outside the block and `exec_sameOutside` for the registers. -/
theorem operationsTouchOnlyTheirInstance : Obligations.OperationsTouchOnlyTheirInstance := by
  intro s t i h
  obtain ⟨hout, hissuer, hresets, hwindow, hshape⟩ := exec_outside h
  obtain ⟨hedge, henv, hosc, hnoise, hmix, hfs⟩ := exec_sameOutside h
  exact ⟨fun slot => by rw [hout], hout, hissuer, hresets, hwindow, hshape, hedge, henv, hosc, hnoise, hmix, hfs⟩

end Sys2Proof.Machine
end

section
/-! OUT as a buffer of slots (20_memory.md R60), and the two operations that change nothing (R66). -/

namespace Sys2Proof.Machine

/-! ### A write of OUT -/

/-- Only the written slot reads differently: `lookup_insertCell` at the level of the buffer. -/
theorem Memory.read_write {m m' : Memory} {slot : Nat} {v : NUM} (hm : m.wf) (h : m.write slot v = some m') (k : Nat) :
    m'.read k = if k = slot then some v else m.read k := by
  rcases m.write_cases slot v with ⟨-, hw⟩ | ⟨-, hw⟩ <;> rw [hw] at h
  · obtain rfl := Option.some.inj h
    exact lookup_insertCell slot v m.cells hm.1 k
  · cases h

/-- Settles O47: by `Memory.write_cases` a write succeeds exactly below the size, and by `Memory.read_write` it is read back. -/
theorem outReadsWhatWasWritten : Obligations.OutReadsWhatWasWritten := by
  intro m slot v hm
  rcases m.write_cases slot v with ⟨hlt, hw⟩ | ⟨hge, hw⟩
  · exact ⟨fun _ => ⟨_, hw, rfl, Memory.read_write hm hw⟩, fun hge => absurd hlt (Nat.not_lt.mpr hge)⟩
  · exact ⟨fun hlt => absurd hlt (Nat.not_lt.mpr hge), fun _ => hw⟩

/-! ### The operations that only answer -/

/-- MIX.PROCESS 0 of a block that is not halted answers the frame of the mode register, and does nothing else
(44_voice_mixer.md R182). -/
theorem exec_mixProcess {s : State} (hs : Safe s) (click bass snare noise env : NUM) :
    exec (.mixProcess 0 click bass snare noise env) s =
      .next (s.answer (.frame (mixOut s.block.mix.mode click bass snare noise env)
        (mixOut s.block.mix.mode click bass snare noise env) (activeCount click bass snare))) := by
  rw [exec, execMixProcess, check_performs hs (by decide)]

@[simp] theorem State.answer_answer (s : State) (r r' : Response) : (s.answer r).answer r' = s.answer r' := rfl

/-- Settles O54: each operation only answers, with a response read from the block (`exec_status`, `exec_mixProcess`), so the
second execution answers from the same block. -/
theorem statusAndMixAreIdempotent : Obligations.StatusAndMixAreIdempotent := by
  intro s hs
  refine ⟨⟨_, exec_status s, rfl, ?_⟩, fun click bass snare noise env =>
    ⟨_, exec_mixProcess hs click bass snare noise env, rfl, ?_⟩⟩
  · simp only [exec_status, State.answer_block, State.answer_answer]
  · have hagain (r : Response) : Safe (s.answer r) := hs
    simp only [exec_mixProcess (hagain _), State.answer_block, State.answer_answer]

end Sys2Proof.Machine
end

section
/-! The command encoding (30_encoding.md R83, R86, R88, R90). The decoder is described once, from the side of the encoder: a
word is on the list of R88 and reserved, or it is an operation's word, and then only the operand list is left to read. -/

namespace Sys2Proof

/-! ### Reading the operand list -/

section
variable {i : Instr} {ops : List Value}

theorem takeNone_inversion {j : Instr} (h : takeNone j ops = .ok i) : ops = [] ∧ j = i := by
  unfold takeNone at h
  split at h
  · exact ⟨rfl, Except.ok.inj h⟩
  · cases h

theorem takeNum_inversion {k : NUM → Instr} (h : takeNum k ops = .ok i) : ∃ v, ops = [.num v] ∧ k v = i := by
  unfold takeNum at h
  split at h
  · exact ⟨_, rfl, Except.ok.inj h⟩
  · cases h

theorem takeBits16_inversion {k : Word → Instr} (h : takeBits16 k ops = .ok i) : ∃ s, ops = [.bits16 s] ∧ k s = i := by
  unfold takeBits16 at h
  split at h
  · exact ⟨_, rfl, Except.ok.inj h⟩
  · cases h

theorem takeFive_inversion {k : NUM → NUM → NUM → NUM → NUM → Instr} (h : takeFive k ops = .ok i) :
    ∃ p q r s t, ops = [.num p, .num q, .num r, .num s, .num t] ∧ k p q r s t = i := by
  unfold takeFive at h
  split at h
  · exact ⟨_, _, _, _, _, rfl, Except.ok.inj h⟩
  · cases h

end

/-- What is left to decode when the word is known to be `j`'s: the operands are read from the list, those of `j` do not matter
(`decode_word`). -/
def Instr.withOperands : Instr → List Value → Except Reject Instr
  | .sysSetfs i _ => takeNum (.sysSetfs i)
  | .edgeInit i _ => takeNum (.edgeInit i)
  | .envSetattack i _ => takeNum (.envSetattack i)
  | .envSetdecay i _ => takeNum (.envSetdecay i)
  | .envSetmin i _ => takeNum (.envSetmin i)
  | .envSetmax i _ => takeNum (.envSetmax i)
  | .oscSetfreq i _ => takeNum (.oscSetfreq i)
  | .oscSetamp i _ => takeNum (.oscSetamp i)
  | .noiseSeed i _ => takeBits16 (.noiseSeed i)
  | .mixProcess i _ _ _ _ _ => takeFive (.mixProcess i)
  | j => takeNone j

/-- The decoder on an operation's word: the fields lead to the branch of that operation. -/
theorem decode_word (j : Instr) (ops : List Value) : decode ⟨j.word, ops⟩ = j.withOperands ops := by
  cases j <;> simp [decode, Instr.word, Instr.withOperands, whenZero]

theorem Instr.withOperands_operands (i : Instr) : i.withOperands i.operands = .ok i := by
  cases i <;> rfl

/-- An operation that is read has the word it was read from and the operand list that was given. -/
theorem Instr.withOperands_inversion {j i : Instr} {ops : List Value} (h : j.withOperands ops = .ok i) :
    i.word = j.word ∧ i.operands = ops := by
  cases j
  case sysSetfs | edgeInit | envSetattack | envSetdecay | envSetmin | envSetmax | oscSetfreq | oscSetamp =>
    obtain ⟨_, rfl, rfl⟩ := takeNum_inversion h
    exact ⟨rfl, rfl⟩
  case noiseSeed =>
    obtain ⟨_, rfl, rfl⟩ := takeBits16_inversion h
    exact ⟨rfl, rfl⟩
  case mixProcess =>
    obtain ⟨_, _, _, _, _, rfl, rfl⟩ := takeFive_inversion h
    exact ⟨rfl, rfl⟩
  all_goals
    obtain ⟨rfl, rfl⟩ := takeNone_inversion h
    exact ⟨rfl, rfl⟩

/-- A wrong operand list is never called a reserved word. -/
theorem Instr.withOperands_ne_reserved (j : Instr) (ops : List Value) : j.withOperands ops ≠ .error .reserved := by
  cases j <;> simp only [Instr.withOperands, takeNone, takeNum, takeBits16, takeFive] <;> split <;> nofun

theorem map_kind_eq_num_cons {ops : List Value} {ks : List Kind} :
    ops.map Value.kind = .num :: ks ↔ ∃ v rest, ops = .num v :: rest ∧ rest.map Value.kind = ks := by
  rcases ops with _ | ⟨x, rest⟩
  · simp
  · cases x <;> simp [Value.kind]

theorem map_kind_eq_bits16_cons {ops : List Value} {ks : List Kind} :
    ops.map Value.kind = .bits16 :: ks ↔ ∃ s rest, ops = .bits16 s :: rest ∧ rest.map Value.kind = ks := by
  rcases ops with _ | ⟨x, rest⟩
  · simp
  · cases x <;> simp [Value.kind]

/-- A list of the types of the operation's own operands is read, whatever the values. -/
theorem Instr.exists_withOperands_of_kinds {j : Instr} {ops : List Value}
    (h : ops.map Value.kind = j.operands.map Value.kind) : ∃ i, j.withOperands ops = .ok i := by
  cases j <;> simp only [Instr.operands, List.map_cons, List.map_nil, Value.kind, map_kind_eq_num_cons,
    map_kind_eq_bits16_cons, List.map_eq_nil_iff] at h
  case mixProcess => obtain ⟨_, _, rfl, _, _, rfl, _, _, rfl, _, _, rfl, _, _, rfl, rfl⟩ := h; exact ⟨_, rfl⟩
  case sysSetfs | edgeInit | envSetattack | envSetdecay | envSetmin | envSetmax | oscSetfreq | oscSetamp | noiseSeed =>
    obtain ⟨_, _, rfl, rfl⟩ := h
    exact ⟨_, rfl⟩
  all_goals (subst h; exact ⟨_, rfl⟩)

/-! ### The reserved words -/

/-- The list of R88 with the zero bits of R85, by UNIT, OP and FIELD. -/
abbrev ListedReserved (unit op fld : Nat) : Prop :=
  6 ≤ unit ∨
  (unit = 0 ∧ 2 ≤ op) ∨ (unit = 1 ∧ 3 ≤ op) ∨ (unit = 2 ∧ 3 ≤ op) ∨
  (unit = 3 ∧ 4 ≤ op) ∨ (unit = 4 ∧ 2 ≤ op) ∨ (unit = 5 ∧ 2 ≤ op) ∨
  (unit = 2 ∧ op = 0 ∧ 4 ≤ fld) ∨
  (unit = 1 ∧ op = 1 ∧ 2 ≤ fld) ∨ (unit = 3 ∧ op = 0 ∧ 4 ≤ fld) ∨ (unit = 5 ∧ op = 0 ∧ 2 ≤ fld) ∨
  (fld ≠ 0 ∧ ¬ (unit = 1 ∧ op = 1) ∧ ¬ (unit = 2 ∧ op = 0) ∧ ¬ (unit = 3 ∧ op = 0) ∧ ¬ (unit = 5 ∧ op = 0))

/-- The word is on the list of R88. -/
abbrev WordListedReserved (cw : Word) : Prop :=
  ListedReserved (fieldUnit cw).toNat (fieldOp cw).toNat (fieldImm cw).toNat

theorem Instr.word_not_listed (i : Instr) : ¬ WordListedReserved i.word := by
  cases i <;> simp only [WordListedReserved, Instr.word, fieldUnit_packWord, fieldOp_packWord, fieldImm_packWord]
  case edgeDebounce raw => cases raw <;> decide
  case oscSetwave w => cases w <;> decide
  case mixSetmode m => cases m <;> decide
  all_goals decide

/-- A word with an operation's UNIT, OP and FIELD is that operation's word, for the INST it carries. -/
theorem packWord_of_fields {cw : Word} {u o f : Nibble} (hu : (fieldUnit cw).toNat = u.toNat)
    (ho : (fieldOp cw).toNat = o.toNat) (hf : fieldImm cw = f) : packWord u o (fieldInst cw) f = cw := by
  rw [← BitVec.eq_of_toNat_eq hu, ← BitVec.eq_of_toNat_eq ho, ← hf, packWord_fields]

theorem listed_of_rawOfCode_eq_none {fld : Nibble} (h : rawOfCode fld = none) : ListedReserved 1 1 fld.toNat := by
  revert fld
  decide

theorem listed_of_modeOfCode_eq_none {fld : Nibble} (h : MixMode.ofCode fld = none) : ListedReserved 5 0 fld.toNat := by
  revert fld
  decide

theorem listed_of_waveformOfCode_eq_none {fld : Nibble} (h : Waveform.ofCode fld = none) : ListedReserved 3 0 fld.toNat := by
  revert fld
  decide

/-- `cw` is on the list of R88 and `r`, what the decoder makes of it, is `reserved`; or `cw` is an operation's word. -/
def ReservedOrWord (cw : Word) (r : Except Reject Instr) : Prop :=
  (WordListedReserved cw ∧ r = .error .reserved) ∨ ∃ i : Instr, i.word = cw

section
variable {cw : Word} (u o : Nibble) (hu : (fieldUnit cw).toNat = u.toNat) (ho : (fieldOp cw).toNat = o.toNat)
include hu ho

/-- In a branch that reads `op`'s UNIT, OP and FIELD, the word is that of `op`. -/
theorem ReservedOrWord.of_field {f : Nibble} {r : Except Reject Instr} (op : Nibble → Instr) (hf : fieldImm cw = f)
    (hop : ∀ i, (op i).word = packWord u o i f) : ReservedOrWord cw r :=
  .inr ⟨op (fieldInst cw), (hop _).trans (packWord_of_fields hu ho hf)⟩

/-- A branch that finds no immediate in FIELD, or a FIELD other than 0. -/
theorem ReservedOrWord.of_listed (h : ListedReserved u.toNat o.toNat (fieldImm cw).toNat) :
    ReservedOrWord cw (.error .reserved) :=
  .inl ⟨by rwa [WordListedReserved, hu, ho], rfl⟩

/-- A branch of an operation without an immediate. -/
theorem ReservedOrWord.of_whenZero {rest : Except Reject Instr} (op : Nibble → Instr)
    (hop : ∀ i, (op i).word = packWord u o i 0)
    (hlisted : ∀ f : Nibble, f ≠ 0 → ListedReserved u.toNat o.toNat f.toNat) :
    ReservedOrWord cw (whenZero (fieldImm cw) rest) := by
  by_cases hf : fieldImm cw = 0
  · exact .of_field u o hu ho op hf hop
  · rw [whenZero, if_neg hf]
    exact .of_listed u o hu ho (hlisted _ hf)

end

/-- Every word is listed and read as reserved, or an operation's. The cases are the decoder's branches. -/
theorem decode_reservedOrWord (c : Command) : ReservedOrWord c.cw (decode c) := by
  unfold decode
  dsimp only
  split
  next hu ho => exact .of_whenZero 0 0 hu ho .sysStatus (fun _ => rfl) (by decide)
  next hu ho => exact .of_whenZero 0 1 hu ho (.sysSetfs · 0) (fun _ => rfl) (by decide)
  next hu ho => exact .of_whenZero 1 0 hu ho (.edgeInit · 0) (fun _ => rfl) (by decide)
  next hu ho =>
    split
    next raw hraw => exact .of_field 1 1 hu ho (.edgeDebounce · raw) (rawCode_of_rawOfCode hraw).symm (fun _ => rfl)
    next hraw => exact .of_listed 1 1 hu ho (listed_of_rawOfCode_eq_none hraw)
  next hu ho => exact .of_whenZero 1 2 hu ho .edgeRising (fun _ => rfl) (by decide)
  next hu ho =>
    split
    next hf => exact .of_field 2 0 (f := 0) hu ho (.envSetattack · 0) (BitVec.eq_of_toNat_eq hf) (fun _ => rfl)
    next hf => exact .of_field 2 0 (f := 1) hu ho (.envSetdecay · 0) (BitVec.eq_of_toNat_eq hf) (fun _ => rfl)
    next hf => exact .of_field 2 0 (f := 2) hu ho (.envSetmin · 0) (BitVec.eq_of_toNat_eq hf) (fun _ => rfl)
    next hf => exact .of_field 2 0 (f := 3) hu ho (.envSetmax · 0) (BitVec.eq_of_toNat_eq hf) (fun _ => rfl)
    next h0 h1 h2 h3 => exact .of_listed 2 0 hu ho (show ListedReserved 2 0 _ by grind)
  next hu ho => exact .of_whenZero 2 1 hu ho .envTrigger (fun _ => rfl) (by decide)
  next hu ho => exact .of_whenZero 2 2 hu ho .envProcess (fun _ => rfl) (by decide)
  next hu ho =>
    split
    next w hw => exact .of_field 3 0 hu ho (.oscSetwave · w) (Waveform.code_of_ofCode hw).symm (fun _ => rfl)
    next hw => exact .of_listed 3 0 hu ho (listed_of_waveformOfCode_eq_none hw)
  next hu ho => exact .of_whenZero 3 1 hu ho (.oscSetfreq · 0) (fun _ => rfl) (by decide)
  next hu ho => exact .of_whenZero 3 2 hu ho (.oscSetamp · 0) (fun _ => rfl) (by decide)
  next hu ho => exact .of_whenZero 3 3 hu ho .oscProcess (fun _ => rfl) (by decide)
  next hu ho => exact .of_whenZero 4 0 hu ho (.noiseSeed · 0) (fun _ => rfl) (by decide)
  next hu ho => exact .of_whenZero 4 1 hu ho .noiseProcess (fun _ => rfl) (by decide)
  next hu ho =>
    split
    next m hm => exact .of_field 5 0 hu ho (.mixSetmode · m) (MixMode.code_of_ofCode hm).symm (fun _ => rfl)
    next hm => exact .of_listed 5 0 hu ho (listed_of_modeOfCode_eq_none hm)
  next hu ho => exact .of_whenZero 5 1 hu ho (.mixProcess · 0 0 0 0 0) (fun _ => rfl) (by decide)
  next => exact .inl ⟨by grind, rfl⟩

/-- The listed words are read as reserved and no other: an operation's word is not listed (`Instr.word_not_listed`). -/
theorem decode_eq_reserved_iff {c : Command} : decode c = .error .reserved ↔ WordListedReserved c.cw := by
  obtain ⟨cw, ops⟩ := c
  rcases decode_reservedOrWord ⟨cw, ops⟩ with ⟨hlisted, hr⟩ | ⟨i, rfl⟩
  · exact iff_of_true hr hlisted
  · exact iff_of_false (decode_word i ops ▸ i.withOperands_ne_reserved ops) i.word_not_listed

/-- A word outside the list of R88 is an operation's. -/
theorem exists_word_of_not_listed {cw : Word} (h : ¬ WordListedReserved cw) : ∃ i : Instr, i.word = cw :=
  (decode_reservedOrWord ⟨cw, []⟩).resolve_left fun ⟨hlisted, _⟩ => h hlisted

/-! ### The rows of the opcode map -/

/-- Each operation has its row (`Laws.Spells`). -/
theorem Instr.spelled : ∀ i : Instr, Laws.Spells.Statement i
  | .sysStatus i => Laws.Spells.sysStatus i
  | .sysSetfs i v => Laws.Spells.sysSetfs i v
  | .edgeInit i rate => Laws.Spells.edgeInit i rate
  | .edgeDebounce i raw => Laws.Spells.edgeDebounce i raw
  | .edgeRising i => Laws.Spells.edgeRising i
  | .envSetattack i v => Laws.Spells.envSetattack i v
  | .envSetdecay i v => Laws.Spells.envSetdecay i v
  | .envSetmin i v => Laws.Spells.envSetmin i v
  | .envSetmax i v => Laws.Spells.envSetmax i v
  | .envTrigger i => Laws.Spells.envTrigger i
  | .envProcess i => Laws.Spells.envProcess i
  | .oscSetwave i w => Laws.Spells.oscSetwave i w
  | .oscSetfreq i f => Laws.Spells.oscSetfreq i f
  | .oscSetamp i a => Laws.Spells.oscSetamp i a
  | .oscProcess i => Laws.Spells.oscProcess i
  | .noiseSeed i seed => Laws.Spells.noiseSeed i seed
  | .noiseProcess i => Laws.Spells.noiseProcess i
  | .mixSetmode i m => Laws.Spells.mixSetmode i m
  | .mixProcess i click bass snare noise env => Laws.Spells.mixProcess i click bass snare noise env

theorem OpRow.spells_iff {r : OpRow} {cw : Word} : r.spells cw = true ↔ cw &&& r.mask = r.pattern :=
  beq_iff_eq

/-- Two rows that take one word agree on the bits both of them fix. -/
theorem OpRow.patterns_agree {r r' : OpRow} {cw : Word} (h : r.spells cw = true) (h' : r'.spells cw = true) :
    r.pattern &&& r'.mask = r'.pattern &&& r.mask := by
  rw [← spells_iff.mp h, ← spells_iff.mp h', BitVec.and_assoc, BitVec.and_assoc, BitVec.and_comm r.mask]

theorem opcodeTable_eq_of_patterns_agree :
    ∀ r ∈ opcodeTable, ∀ r' ∈ opcodeTable, r.pattern &&& r'.mask = r'.pattern &&& r.mask → r = r' := by
  decide

/-- Every row fixes UNIT and OP to values for which, with the bits it fixes in FIELD, R88 lists nothing. -/
theorem opcodeTable_fields :
    ∀ r ∈ opcodeTable, fieldUnit r.mask = 15 ∧ fieldOp r.mask = 15 ∧
      ∀ f : Nibble, f &&& fieldImm r.mask = fieldImm r.pattern →
        ¬ ListedReserved (fieldUnit r.pattern).toNat (fieldOp r.pattern).toNat f.toNat := by
  decide

/-- A mask of ones keeps a field. -/
theorem extractField_and_of_ones {cw m : Word} {k : Nat} (h : m.extractLsb' k 4 = 15) :
    (cw &&& m).extractLsb' k 4 = cw.extractLsb' k 4 := by
  rw [BitVec.extractLsb'_and, h]
  exact BitVec.and_allOnes

/-- A word that a row takes has the row's UNIT and OP, and its FIELD under the mask is the row's. -/
theorem OpRow.not_listed_of_spells {r : OpRow} {cw : Word} (hr : r ∈ opcodeTable) (h : r.spells cw = true) :
    ¬ WordListedReserved cw := by
  obtain ⟨hunit, hop, hfld⟩ := opcodeTable_fields r hr
  have hu : fieldUnit (cw &&& r.mask) = fieldUnit cw := extractField_and_of_ones hunit
  have ho : fieldOp (cw &&& r.mask) = fieldOp cw := extractField_and_of_ones hop
  rw [← spells_iff.mp h, hu, ho] at hfld
  exact hfld (fieldImm cw) BitVec.extractLsb'_and.symm

/-! ### The obligations -/

/-- Settles O1: the word leads to the operation's branch (`decode_word`), which reads the operation's own operand list. -/
theorem decodeOfEncodeIsTheOperation : Obligations.DecodeOfEncodeIsTheOperation := fun i =>
  (decode_word i i.operands).trans i.withOperands_operands

/-- Settles O2: the word of a command that decodes is not listed, so it is an operation's, and what is read beside that word
keeps the word and the list. -/
theorem encodeOfDecodeIsTheCommand : Obligations.EncodeOfDecodeIsTheCommand := by
  rintro ⟨cw, ops⟩ i h
  rcases decode_reservedOrWord ⟨cw, ops⟩ with ⟨-, hr⟩ | ⟨j, rfl⟩
  · cases hr.symm.trans h
  · rw [decode_word] at h
    obtain ⟨hword, hops⟩ := Instr.withOperands_inversion h
    rw [encode, hword, hops]

/-- Settles O4: rows that take one word agree where both fix bits, and no two rows of the map do. -/
theorem noWordSpellsTwoRows : Obligations.NoWordSpellsTwoRows := fun _ r r' hr hr' h h' =>
  opcodeTable_eq_of_patterns_agree r hr r' hr' (OpRow.patterns_agree h h')

/-- Settles O3: a listed word is taken by no row (`OpRow.not_listed_of_spells`), and every other word is an operation's, which
its row takes (`Instr.spelled`). No second row takes it (O4), so that row's types decide whether the operands are read. -/
theorem decoderFollowsTheOpcodeMap : Obligations.DecoderFollowsTheOpcodeMap := by
  rintro ⟨cw, ops⟩
  refine ⟨decode_eq_reserved_iff.trans ⟨fun hlisted r hr => ?_, fun hnone => ?_⟩, fun ⟨i, h⟩ => ?_,
    fun ⟨r, hr, hs, hk⟩ => ?_⟩
  · exact Bool.eq_false_iff.mpr fun hs => OpRow.not_listed_of_spells hr hs hlisted
  · by_contra hlisted
    obtain ⟨i, rfl⟩ := exists_word_of_not_listed hlisted
    obtain ⟨r, hr, hs, -⟩ := i.spelled
    exact absurd hs (Bool.eq_false_iff.mp (hnone r hr))
  · obtain ⟨r, hr, hs, hk⟩ := i.spelled
    rw [← encodeOfDecodeIsTheCommand _ _ h]
    exact ⟨r, hr, hs, hk.symm⟩
  · obtain ⟨j, rfl⟩ := exists_word_of_not_listed (OpRow.not_listed_of_spells hr hs)
    obtain ⟨r', hr', hs', hk'⟩ := j.spelled
    obtain rfl := noWordSpellsTwoRows _ _ _ hr hr' hs hs'
    obtain ⟨i, hi⟩ := Instr.exists_withOperands_of_kinds (hk.trans hk')
    exact ⟨i, (decode_word j ops).trans hi⟩

/-- Settles O5: `ListedReserved` is the list of R88. -/
theorem reservedWordsAreTheListedOnes : Obligations.ReservedWordsAreTheListedOnes := fun _ _ =>
  decode_eq_reserved_iff

/-- Settles O6: the decoder computes the seven operations, and the three words are on the list of R88. -/
theorem wordsWrittenOutDecode : Obligations.WordsWrittenOutDecode := by
  refine ⟨rfl, rfl, rfl, rfl, rfl, rfl, rfl, ?_, ?_, ?_⟩ <;> exact decode_eq_reserved_iff.mpr (by decide)

end Sys2Proof
end

section
/-! EDGE (40_edge_detector.md R100 to R104): the three operations as equations; everything an operation can do to one detector, said
once; and what follows for the operations between an EDGE.INIT and a later move of LEVEL. -/

namespace Sys2Proof.Machine

/-! ### The threshold -/

theorem threshold_le_iff (window rate : NUM) {n : Nat} (hn : 1 ≤ n) : threshold window rate ≤ n ↔ window * rate ≤ (n : NUM) := by
  have hn : (1 : Int) ≤ n := by exact_mod_cast hn
  rw [threshold, Int.toNat_le, max_le_iff, and_iff_right hn, Int.ceil_le, Int.cast_natCast]

/-- Settles O18: below the 1 of R100 there is no positive count, and above it the ceiling decides. -/
theorem thresholdIsTheWindowInCalls : Obligations.ThresholdIsTheWindowInCalls := fun window rate =>
  ⟨one_le_threshold window rate, fun _ => threshold_le_iff window rate⟩

/-! ### One detector's registers -/

theorem edge_setEdge_same (b : Block) {n : Nat} (h : n < nEdge) (e : EdgeRegs) : (b.setEdge ⟨n, h⟩ e).edge[n] = e :=
  Vector.getElem_set_self h

/-! ### The three operations on a block that is not halted -/

section
variable {s : State} {inst : Nibble} (hs : Safe s) (h : inst.toNat < nEdge)
include hs

theorem exec_edgeInit (rate : NUM) :
    exec (.edgeInit inst rate) s =
      .next (State.answer { s with block := s.block.setEdge ⟨inst.toNat, h⟩ ⟨some rate, false, 0, false⟩ } .empty) := by
  rw [exec, execEdgeInit, check_performs hs h]

theorem exec_edgeDebounce (raw : Bool) {rate : NUM} (hrate : s.block.edge[inst.toNat].rate = some rate) :
    exec (.edgeDebounce inst raw) s =
      .next (State.answer { s with
        block := s.block.setEdge ⟨inst.toNat, h⟩ (s.block.edge[inst.toNat].debounce raw (threshold s.window rate)) } .empty) := by
  rw [exec, execEdgeDebounce, check_performs hs h]
  simp only [Fin.getElem_fin, hrate]

theorem exec_edgeDebounce_unwritten (raw : Bool) (hrate : s.block.edge[inst.toNat].rate = none) :
    exec (.edgeDebounce inst raw) s = .next (s.raise .unconfigured (Instr.edgeDebounce inst raw).word) := by
  rw [exec, execEdgeDebounce, check_performs hs h]
  simp only [Fin.getElem_fin, hrate]

theorem exec_edgeRising :
    exec (.edgeRising inst) s =
      .next (State.answer { s with block := s.block.setEdge ⟨inst.toNat, h⟩ { s.block.edge[inst.toNat] with rise := false } }
        (.bit s.block.edge[inst.toNat].rise)) := by
  rw [exec, execEdgeRising, check_performs hs h]
  rfl

end

/-- Settles O19, by `exec_edgeInit`. -/
theorem edgeInitClearsTheDetector : Obligations.EdgeInitClearsTheDetector := fun _ inst h rate hs =>
  ⟨packWord_inst 1 0 inst 0, exec_edgeInit hs h rate⟩

/-- Settles O21, by `exec_edgeRising`. -/
theorem risingAnswersAndClearsTheFlag : Obligations.RisingAnswersAndClearsTheFlag := fun _ inst h hs =>
  ⟨packWord_inst 1 2 inst 0, exec_edgeRising hs h⟩

/-- The three branches of R102 with RATE written, register by register. -/
theorem EdgeRegs.debounce_eq {e : EdgeRegs} {rate : NUM} (hrate : e.rate = some rate) (raw : Bool) (thr : Nat) :
    e.debounce raw thr =
      if raw = e.level then ⟨some rate, e.level, 0, false⟩
      else if thr ≤ e.cnt + 1 then ⟨some rate, raw, 0, raw⟩
      else ⟨some rate, e.level, e.cnt + 1, false⟩ := by
  rw [← hrate]
  rfl

/-- Settles O20: with RATE written by `exec_edgeDebounce` and the branches of `EdgeRegs.debounce_eq`, without it by
`exec_edgeDebounce_unwritten`. -/
theorem debounceCountsDifferingReadings : Obligations.DebounceCountsDifferingReadings := by
  intro s inst h raw hs
  refine ⟨by cases raw <;> rfl, fun rate hrate => ?_, exec_edgeDebounce_unwritten hs h raw⟩
  dsimp only
  rw [exec_edgeDebounce hs h raw hrate, EdgeRegs.debounce_eq hrate]
  rfl

/-! ### A pin held high -/

/-- The detector after EDGE.INIT and `n` readings of 1 (70_reset_and_hazards.md R251). -/
def heldPin (rate : NUM) (thr n : Nat) : EdgeRegs :=
  if n < thr then ⟨some rate, false, n, false⟩
  else if n = thr then ⟨some rate, true, 0, true⟩
  else ⟨some rate, true, 0, false⟩

theorem heldPin_rate (rate : NUM) (thr n : Nat) : (heldPin rate thr n).rate = some rate := by
  unfold heldPin
  split_ifs <;> rfl

/-- One more reading of 1: it is counted, it is the one that reaches the threshold, or it equals LEVEL. -/
theorem heldPin_debounce (rate : NUM) (thr n : Nat) : (heldPin rate thr n).debounce true thr = heldPin rate thr (n + 1) := by
  rcases Nat.lt_trichotomy (n + 1) thr with hlt | rfl | hgt
  · simp [heldPin, EdgeRegs.debounce, riseFlag, hlt, Nat.lt_of_succ_lt hlt]
  · simp [heldPin, EdgeRegs.debounce, riseFlag]
  · have hn : ¬ n < thr := by omega
    have hne : n + 1 ≠ thr := by omega
    by_cases h : n = thr <;> simp [heldPin, EdgeRegs.debounce, riseFlag, hn, hne, h, hgt.le]

theorem heldPin_zero (window rate : NUM) : heldPin rate (threshold window rate) 0 = ⟨some rate, false, 0, false⟩ :=
  if_pos (one_le_threshold window rate)

theorem execAll_heldPin {s : State} {inst : Nibble} (hs : Safe s) (h : inst.toNat < nEdge) (rate : NUM) (n : Nat) :
    ∃ t, execAll (.edgeInit inst rate :: List.replicate n (.edgeDebounce inst true)) s = .next t ∧ Safe t ∧
      t.window = s.window ∧ t.block.edge[inst.toNat] = heldPin rate (threshold s.window rate) n := by
  induction n with
  | zero =>
    refine ⟨_, execAll_cons [] (exec_edgeInit hs h rate), hs, rfl, ?_⟩
    exact (edge_setEdge_same ..).trans (heldPin_zero s.window rate).symm
  | succ n ih =>
    obtain ⟨t, ht, hsafe, hwindow, hedge⟩ := ih
    have hlast := exec_edgeDebounce hsafe h true (hedge ▸ heldPin_rate rate _ n)
    rw [hwindow, hedge, heldPin_debounce] at hlast
    rw [List.replicate_succ', ← List.cons_append, execAll_append, ht, andThen_next, execAll_cons [] hlast]
    exact ⟨_, rfl, hsafe, rfl, edge_setEdge_same ..⟩

/-- Settles O23, by `execAll_heldPin`. -/
theorem heldPinRaisesOneEdge : Obligations.HeldPinRaisesOneEdge := by
  intro s inst h rate n hs
  obtain ⟨t, ht, -, -, hedge⟩ := execAll_heldPin hs h rate n
  exact ⟨t, ht, hedge⟩

/-! ### What an operation can do to one detector -/

/-- The detector of instance `inst` before and after an operation that raised no fault. -/
inductive EdgeMove (window : NUM) (inst : Nibble) : Instr → EdgeRegs → EdgeRegs → Prop
  | init (e : EdgeRegs) (rate : NUM) : EdgeMove window inst (.edgeInit inst rate) e ⟨some rate, false, 0, false⟩
  | debounce (e : EdgeRegs) (raw : Bool) (rate : NUM) (hrate : e.rate = some rate) :
      EdgeMove window inst (.edgeDebounce inst raw) e (e.debounce raw (threshold window rate))
  | rising (e : EdgeRegs) : EdgeMove window inst (.edgeRising inst) e { e with rise := false }
  | other (i : Instr) (e : EdgeRegs) (hother : i.unit ≠ .edge ∨ i.inst ≠ inst) : EdgeMove window inst i e e

/-- A completed operation moves the detector as its own rule says, or names another. -/
theorem Completes.edgeMove {i : Instr} {s t : State} (hc : Completes i s t) {inst : Nibble} (h : inst.toNat < nEdge) :
    EdgeMove s.window inst i s.block.edge[inst.toNat] t.block.edge[inst.toNat] := by
  by_cases hother : i.unit ≠ .edge ∨ i.inst ≠ inst
  · have hsame : t.block.edge[inst.toNat] = s.block.edge[inst.toNat] :=
      hc.sameOutside.edge ⟨inst.toNat, h⟩ (hother.imp_right (mt BitVec.eq_of_toNat_eq))
    rw [hsame]
    exact .other i _ hother
  · obtain ⟨hunit, hinst⟩ : i.unit = .edge ∧ i.inst = inst := by simpa using hother
    cases i
    case edgeInit k rate =>
      obtain rfl : k = inst := hinst
      obtain ⟨⟨_, _⟩, rfl, rfl⟩ := hc
      rw [State.answer_block, edge_setEdge_same]
      exact .init _ _
    case edgeDebounce k raw =>
      obtain rfl : k = inst := hinst
      obtain ⟨⟨_, _⟩, rate, rfl, hrate, rfl⟩ := hc
      rw [State.answer_block, edge_setEdge_same]
      exact .debounce _ _ _ hrate
    case edgeRising k =>
      obtain rfl : k = inst := hinst
      obtain ⟨⟨_, _⟩, rfl, rfl⟩ := hc
      rw [State.answer_block, edge_setEdge_same]
      exact .rising _
    all_goals cases hunit

/-- Everything an operation can do to a detector: the block is halted after it and the detector is as it was, or the operation was
performed on a block that was not halted. -/
theorem exec_edgeMove {i : Instr} {s t : State} (he : exec i s = .next t) {inst : Nibble} (h : inst.toNat < nEdge) :
    (t.block.sys.fault.isSome ∧ t.block.edge[inst.toNat] = s.block.edge[inst.toNat]) ∨
    (Safe s ∧ EdgeMove s.window inst i s.block.edge[inst.toNat] t.block.edge[inst.toNat]) := by
  rcases exec_inversion he with ⟨hf, -, rfl⟩ | ⟨hf, -, rfl⟩ | ⟨-, cause, rfl⟩ | ⟨hs, -, -, hc⟩
  · exact .inl ⟨hf, rfl⟩
  · exact .inl ⟨hf, rfl⟩
  · exact .inl ⟨rfl, rfl⟩
  · exact .inr ⟨hs, hc.edgeMove h⟩

/-! ### LEVEL and the readings since EDGE.INIT -/

/-- Only EDGE.INIT and a debounce that reaches the threshold change LEVEL. -/
theorem EdgeMove.level_ne {window : NUM} {inst : Nibble} {i : Instr} {e e' : EdgeRegs} (hm : EdgeMove window inst i e e')
    (hne : e'.level ≠ e.level) :
    (∃ rate, i = .edgeInit inst rate) ∨
    (i = .edgeDebounce inst e'.level ∧ ∃ rate, e.rate = some rate ∧ threshold window rate ≤ e.cnt + 1) := by
  cases hm with
  | init _ rate => exact .inl ⟨rate, rfl⟩
  | debounce _ raw rate hrate =>
    rcases e.debounce_cases raw (threshold window rate) with ⟨-, h⟩ | ⟨-, hthr, h⟩ | ⟨-, -, h⟩ <;> rw [h] at hne ⊢
    · exact absurd rfl hne
    · exact .inr ⟨rfl, rate, hrate, hthr⟩
    · exact absurd rfl hne
  | rising => exact absurd rfl hne
  | other => exact absurd rfl hne

/-- RATE is written, and CNT counts readings that differ from LEVEL: the last ones of the list. -/
structure CountsReadings (rate : NUM) (raws : List Bool) (e : EdgeRegs) : Prop where
  rate : e.rate = some rate
  cnt : List.replicate e.cnt (!e.level) <:+ raws

theorem CountsReadings.init (rate : NUM) : CountsReadings rate [] ⟨some rate, false, 0, false⟩ :=
  ⟨rfl, List.nil_suffix⟩

section
variable {rate : NUM} {raws : List Bool} {e : EdgeRegs} (he : CountsReadings rate raws e)
include he

/-- A reading that differs from LEVEL prolongs the run of such readings. -/
theorem CountsReadings.append_differing {raw : Bool} (hne : raw ≠ e.level) :
    List.replicate (e.cnt + 1) raw <:+ raws ++ [raw] := by
  rw [List.replicate_succ', Bool.eq_not_of_ne hne]
  exact List.suffix_append_self_iff.mpr he.cnt

theorem CountsReadings.debounce (raw : Bool) (thr : Nat) : CountsReadings rate (raws ++ [raw]) (e.debounce raw thr) := by
  rcases e.debounce_cases raw thr with ⟨-, h⟩ | ⟨-, -, h⟩ | ⟨hne, -, h⟩ <;> rw [h]
  · exact ⟨he.rate, List.nil_suffix⟩
  · exact ⟨he.rate, List.nil_suffix⟩
  · exact ⟨he.rate, Bool.eq_not_of_ne hne ▸ he.append_differing hne⟩

/-- A differing reading that makes CNT reach `thr` is the last of `thr` equal ones. -/
theorem CountsReadings.ends_with_threshold {raw : Bool} (hne : raw ≠ e.level) {thr : Nat} (hthr : thr ≤ e.cnt + 1) :
    List.replicate thr raw <:+ raws ++ [raw] := by
  have hrun : List.replicate thr raw <:+ List.replicate (e.cnt + 1) raw :=
    List.suffix_replicate_iff.mpr ⟨by simpa using hthr, by simp⟩
  exact hrun.trans (he.append_differing hne)

end

theorem readings_of_other {inst : Nibble} {i : Instr} (hother : i.unit ≠ .edge ∨ i.inst ≠ inst) : readings inst [i] = [] := by
  cases i
  case edgeDebounce k raw =>
    have hk : k ≠ inst := hother.resolve_left (not_not_intro rfl)
    simp [readings, hk]
  all_goals rfl

theorem EdgeMove.countsReadings {window rate : NUM} {inst : Nibble} {i : Instr} {e e' : EdgeRegs} {raws : List Bool}
    (hm : EdgeMove window inst i e e') (hi : ∀ again, i ≠ .edgeInit inst again) (he : CountsReadings rate raws e) :
    CountsReadings rate (raws ++ readings inst [i]) e' := by
  cases hm with
  | init _ again => exact absurd rfl (hi again)
  | debounce _ raw => exact readings_debounce inst [raw] ▸ he.debounce raw _
  | rising => exact (List.append_nil raws).symm ▸ ⟨he.rate, he.cnt⟩
  | other _ _ hother => rw [readings_of_other hother, List.append_nil]; exact he

/-- CNT goes on counting over any operations but EDGE.INIT, as long as the block ends without a fault: a halted block reads nothing. -/
theorem execAll_countsReadings {ops : List Instr} {s t : State} (hrun : execAll ops s = .next t) {inst : Nibble}
    (h : inst.toNat < nEdge) (hops : ∀ again, Instr.edgeInit inst again ∉ ops) {rate : NUM} {raws : List Bool}
    (hs : Safe s → CountsReadings rate raws s.block.edge[inst.toNat]) (ht : Safe t) :
    CountsReadings rate (raws ++ readings inst ops) t.block.edge[inst.toNat] := by
  induction ops generalizing s raws with
  | nil =>
    obtain rfl := Host.Outcome.next.inj hrun
    simpa using hs ht
  | cons i rest ih =>
    obtain ⟨m, hm, hrest⟩ := andThen_eq_next hrun
    have hm : Safe m → CountsReadings rate (raws ++ readings inst [i]) m.block.edge[inst.toNat] := fun hsafe => by
      rcases exec_edgeMove hm h with ⟨hf, -⟩ | ⟨hs', hmove⟩
      · simp [hsafe] at hf
      · exact hmove.countsReadings (fun again hi => hops again (hi ▸ List.mem_cons_self ..)) (hs hs')
    have ht := ih hrest (fun again hi => hops again (List.mem_cons_of_mem _ hi)) hm
    rwa [List.append_assoc, ← readings_append] at ht

/-- A property that every operation keeps is kept by a list of operations. -/
theorem execAll_keeps {P : State → Prop} (hP : ∀ i s t, exec i s = .next t → P s → P t) {ops : List Instr} {s t : State}
    (hrun : execAll ops s = .next t) (hs : P s) : P t := by
  induction ops generalizing s with
  | nil => exact Host.Outcome.next.inj hrun ▸ hs
  | cons i rest ih =>
    obtain ⟨m, hm, hrest⟩ := andThen_eq_next hrun
    exact ih hrest (hP i s m hm hs)

theorem exec_window {i : Instr} {s t : State} (he : exec i s = .next t) : t.window = s.window := by
  obtain ⟨-, -, -, hwindow, -⟩ := exec_outside he
  exact hwindow

theorem execAll_window {ops : List Instr} {s t : State} (hrun : execAll ops s = .next t) : t.window = s.window :=
  execAll_keeps (P := fun u => u.window = s.window) (fun _ _ _ he hs => (exec_window he).trans hs) hrun rfl

/-- Settles O22: the operation that changes LEVEL is a debounce that makes CNT reach the threshold (`EdgeMove.level_ne`), and CNT
has counted the readings before it (`execAll_countsReadings`). -/
theorem levelMovesOnlyAfterThresholdEqualReadings : Obligations.LevelMovesOnlyAfterThresholdEqualReadings := by
  intro s t u inst h rate between last hs hops hrun hlast hne
  obtain ⟨m, hm, hbetween⟩ := andThen_eq_next hrun
  obtain rfl := Host.Outcome.next.inj ((exec_edgeInit hs h rate).symm.trans hm)
  rcases exec_edgeMove hlast h with ⟨-, hsame⟩ | ⟨ht, hmove⟩
  · exact absurd (congrArg EdgeRegs.level hsame) hne
  obtain ⟨again, rfl⟩ | ⟨rfl, rate', hrate', hthr⟩ := hmove.level_ne hne
  · exact absurd (List.mem_append_right _ (List.mem_singleton_self _)) (hops again)
  have hcounts : CountsReadings rate (readings inst between) t.block.edge[inst.toNat] :=
    execAll_countsReadings hbetween h (fun again hi => hops again (List.mem_append_left _ hi)) (raws := [])
      (fun _ => by rw [State.answer_block, edge_setEdge_same]; exact .init rate) ht
  have hwindow : t.window = s.window := (execAll_window hbetween :)
  obtain rfl : rate = rate' := Option.some.inj (hcounts.rate.symm.trans hrate')
  rw [hwindow] at hthr
  obtain ⟨before, hbefore⟩ := hcounts.ends_with_threshold hne hthr
  refine ⟨rfl, before, ?_⟩
  rw [hbefore, readings_append]
  exact congrArg _ (readings_debounce inst [_])

/-! ### Between two answers of 1 -/

/-- RISE is set only by a move of LEVEL from 0 to 1. -/
theorem EdgeMove.rise_eq_false {window : NUM} {inst : Nibble} {i : Instr} {e e' : EdgeRegs} (hm : EdgeMove window inst i e e')
    (hlevel : e.level = true) (hrise : e.rise = false) (hlevel' : e'.level = true) : e'.rise = false := by
  cases hm with
  | init => rfl
  | debounce _ raw rate =>
    rcases e.debounce_cases raw (threshold window rate) with ⟨-, h⟩ | ⟨hne, -, h⟩ | ⟨-, -, h⟩ <;> rw [h] at hlevel' ⊢
    exact absurd (hlevel'.trans hlevel.symm) hne
  | rising => rfl
  | other => exact hrise

theorem exec_rise_eq_false {i : Instr} {s t : State} (he : exec i s = .next t) {inst : Nibble} (h : inst.toNat < nEdge)
    (hlevel : s.block.edge[inst.toNat].level = true) (hrise : s.block.edge[inst.toNat].rise = false)
    (hlevel' : t.block.edge[inst.toNat].level = true) : t.block.edge[inst.toNat].rise = false := by
  rcases exec_edgeMove he h with ⟨-, hsame⟩ | ⟨-, hmove⟩
  · rwa [hsame]
  · exact hmove.rise_eq_false hlevel hrise hlevel'

/-- Before RISE is 1 again, LEVEL has been 0. -/
theorem exists_level_false_of_rise {ops : List Instr} {s t : State} (hrun : execAll ops s = .next t) {inst : Nibble}
    (h : inst.toNat < nEdge) (hlevel : s.block.edge[inst.toNat].level = true) (hrise : s.block.edge[inst.toNat].rise = false)
    (hrise' : t.block.edge[inst.toNat].rise = true) :
    ∃ before after w, ops = before ++ after ∧ execAll before s = .next w ∧ w.block.edge[inst.toNat].level = false := by
  induction ops generalizing s with
  | nil =>
    obtain rfl := Host.Outcome.next.inj hrun
    exact absurd hrise' (Bool.eq_false_iff.mp hrise)
  | cons i rest ih =>
    obtain ⟨m, hm, hrest⟩ := andThen_eq_next hrun
    cases hlevel' : m.block.edge[inst.toNat].level with
    | false => exact ⟨[i], rest, m, rfl, execAll_cons [] hm, hlevel'⟩
    | true =>
      obtain ⟨before, after, w, rfl, hw, hfall⟩ := ih hrest hlevel' (exec_rise_eq_false hm h hlevel hrise hlevel')
      exact ⟨i :: before, after, w, rfl, (execAll_cons before hm).trans hw, hfall⟩

theorem execAll_keeps_blockInv {ops : List Instr} {s t : State} (hrun : execAll ops s = .next t)
    (hs : BlockInv s.window s.block) : BlockInv t.window t.block :=
  execAll_keeps (P := fun u => BlockInv u.window u.block)
    (fun _ _ _ he hb => exec_window he ▸ exec_keeps_blockInv he hb) hrun hs

/-- EDGE.RISING that answers 1 found RISE set, on a block that is not halted, and cleared it. -/
theorem exec_edgeRising_answers_true {s t : State} {inst : Nibble} (h : inst.toNat < nEdge)
    (he : exec (.edgeRising inst) s = .next t) (hresp : t.resp = some (.bit true)) :
    s.block.edge[inst.toNat].rise = true ∧ t.block.edge[inst.toNat] = { s.block.edge[inst.toNat] with rise := false } := by
  have hs : Safe s := by
    by_contra hf
    rw [exec_ignored (i := .edgeRising inst) (Option.isSome_iff_ne_none.mpr hf) nofun] at he
    obtain rfl := Host.Outcome.next.inj he
    cases hresp
  obtain rfl := Host.Outcome.next.inj ((exec_edgeRising hs h).symm.trans he)
  exact ⟨Response.bit.inj (Option.some.inj hresp), edge_setEdge_same ..⟩

/-- Settles O24: RISE is 1 only with LEVEL (`BlockInv`), at both answers; the first clears it, and LEVEL falls before it is set
again (`exists_level_false_of_rise`). -/
theorem risingAnswersOncePerMove : Obligations.RisingAnswersOncePerMove := by
  intro s t u v inst h between hs hfirst hone hbetween hsecond hone'
  obtain ⟨hrise, hedge⟩ := exec_edgeRising_answers_true h hfirst hone
  obtain ⟨hrise', -⟩ := exec_edgeRising_answers_true h hsecond hone'
  have hinv : BlockInv u.window u.block :=
    execAll_keeps_blockInv hbetween (exec_window hfirst ▸ exec_keeps_blockInv hfirst hs)
  have hlevel : t.block.edge[inst.toNat].level = true := by
    rw [hedge]
    exact (hs.edge ⟨inst.toNat, h⟩).rise hrise
  have hcleared : t.block.edge[inst.toNat].rise = false := by rw [hedge]
  exact ⟨hlevel, (hinv.edge ⟨inst.toNat, h⟩).rise hrise', exists_level_false_of_rise hbetween h hlevel hcleared hrise'⟩

end Sys2Proof.Machine
end

section
/-! ENV (41_envelope_generator.md R120 to R131): the operations as equations; the branches of ENV.PROCESS and the range of its
value; what an operation can do to STAGE and ELAPSED; and the whole envelope after a trigger, call by call. -/

namespace Sys2Proof.Machine

/-! ### One envelope's registers -/

theorem env_setEnv_same (b : Block) {n : Nat} (h : n < nEnv) (e : EnvRegs) : (b.setEnv ⟨n, h⟩ e).env[n] = e :=
  Vector.getElem_set_self h

@[simp] theorem Block.setEnv_self (b : Block) {n : Nat} (h : n < nEnv) : b.setEnv ⟨n, h⟩ b.env[n] = b := by
  simp only [Block.setEnv, Vector.set_getElem_self]

/-- The block has no fault, and the five registers that ENV.PROCESS reads hold these values (R127). -/
structure EnvReady (s : State) (inst : Nibble) (h : inst.toNat < nEnv) (fs attack decay lo hi : NUM) : Prop where
  safe : Safe s
  fs : s.block.sys.fs = some fs
  attack : s.block.env[inst.toNat].attack = some attack
  decay : s.block.env[inst.toNat].decay = some decay
  min : s.block.env[inst.toNat].min = some lo
  max : s.block.env[inst.toNat].max = some hi

/-! ### The operations on a block that is not halted -/

section
variable {s : State} {inst : Nibble} (hs : Safe s) (h : inst.toNat < nEnv)
include hs

/-- The four configuration writes are this one, each with its word and its register. -/
theorem envConfigure_performs (cw : Word) (write : EnvRegs → EnvRegs) :
    envConfigure cw inst s write =
      .next (State.answer { s with block := s.block.setEnv ⟨inst.toNat, h⟩ (write s.block.env[inst.toNat]) } .empty) := by
  rw [envConfigure, check_performs hs h]
  rfl

theorem exec_envTrigger :
    exec (.envTrigger inst) s =
      .next (State.answer { s with
        block := s.block.setEnv ⟨inst.toNat, h⟩ { s.block.env[inst.toNat] with stage := .attack, elapsed := 0 } } .empty) := by
  rw [exec, execEnvTrigger, check_performs hs h]
  rfl

theorem exec_envProcess_unwritten
    (hnone : s.block.sys.fs = none ∨ s.block.env[inst.toNat].attack = none ∨ s.block.env[inst.toNat].decay = none ∨
      s.block.env[inst.toNat].min = none ∨ s.block.env[inst.toNat].max = none) :
    exec (.envProcess inst) s = .next (s.raise .unconfigured (Instr.envProcess inst).word) := by
  have hunmet : Unmet (.envProcess inst) s.block := ⟨⟨inst.toNat, h⟩, rfl, hnone⟩
  rcases exec_performs (i := .envProcess inst) hs h with ⟨_, _, -, hi, -⟩ | ⟨-, hraise⟩ | ⟨hmet, -⟩
  · cases hi
  · exact hraise
  · exact absurd hunmet hmet

end

/-- ENV.PROCESS with the registers written, for what `EnvRegs.process` makes of the stage. -/
theorem exec_envProcess {s : State} {inst : Nibble} {h : inst.toNat < nEnv} {fs attack decay lo hi : NUM}
    (hs : EnvReady s inst h fs attack decay lo hi) {r : EnvRegs × NUM}
    (hr : s.block.env[inst.toNat].process (attack * fs) (decay * fs) lo hi = r) :
    exec (.envProcess inst) s =
      .next (State.answer { s with block := s.block.setEnv ⟨inst.toNat, h⟩ r.1 } (.num r.2)) := by
  rw [exec, execEnvProcess, check_performs hs.safe h]
  simp only [Fin.getElem_fin, hs.fs, hs.attack, hs.decay, hs.min, hs.max, segmentLength, hr]

/-- Settles O25, by `envConfigure_performs` for each of the four registers. -/
theorem envelopeConfigurationWrites : Obligations.EnvelopeConfigurationWrites := fun _ inst h v hs =>
  ⟨⟨packWord_inst 2 0 inst 0, envConfigure_performs hs h _ ({ · with attack := some v })⟩,
    ⟨packWord_inst 2 0 inst 1, envConfigure_performs hs h _ ({ · with decay := some v })⟩,
    ⟨packWord_inst 2 0 inst 2, envConfigure_performs hs h _ ({ · with min := some v })⟩,
    ⟨packWord_inst 2 0 inst 3, envConfigure_performs hs h _ ({ · with max := some v })⟩⟩

/-- Settles O26, by `exec_envTrigger`. -/
theorem triggerRestartsTheAttack : Obligations.TriggerRestartsTheAttack := fun _ inst h hs =>
  ⟨packWord_inst 2 1 inst 0, exec_envTrigger hs h⟩

/-! ### The branches of ENV.PROCESS -/

section
variable {e : EnvRegs} {a d lo hi : NUM}

theorem EnvRegs.process_idle (hs : e.stage = .idle) : e.process a d lo hi = (e, lo) := by
  simp only [process, hs]

theorem EnvRegs.process_attack_completes (hs : e.stage = .attack) (ha : a ≤ (e.elapsed + 1 : Nat)) :
    e.process a d lo hi = ({ e with stage := .decay, elapsed := 0 }, hi) := by
  simp only [process, hs, if_pos ha]

theorem EnvRegs.process_attack_runs (hs : e.stage = .attack) (ha : (e.elapsed + 1 : Nat) < a) :
    e.process a d lo hi =
      ({ e with stage := .attack, elapsed := e.elapsed + 1 }, lo + (e.elapsed + 1 : Nat) / a * (hi - lo)) := by
  simp only [process, hs, if_neg (not_le.mpr ha)]

theorem EnvRegs.process_decay_completes (hs : e.stage = .decay) (hd : d ≤ (e.elapsed + 1 : Nat)) :
    e.process a d lo hi = ({ e with stage := .idle, elapsed := 0 }, lo) := by
  simp only [process, hs, if_pos hd]

theorem EnvRegs.process_decay_runs (hs : e.stage = .decay) (hd : (e.elapsed + 1 : Nat) < d) :
    e.process a d lo hi =
      ({ e with stage := .decay, elapsed := e.elapsed + 1 }, hi - (e.elapsed + 1 : Nat) / d * (hi - lo)) := by
  simp only [process, hs, if_neg (not_le.mpr hd)]

end

/-- Settles O27: with the registers written `exec_envProcess` runs the branch of the stage, without one of them
`exec_envProcess_unwritten`. -/
theorem envelopeProcessFollowsTheStage : Obligations.EnvelopeProcessFollowsTheStage := by
  intro s inst h hs e n
  refine ⟨packWord_inst 2 2 inst 0, fun fs attack decay lo hi hfs hattack hdecay hlo hhi => ?_,
    exec_envProcess_unwritten hs h⟩
  have hready : EnvReady s inst h fs attack decay lo hi := ⟨hs, hfs, hattack, hdecay, hlo, hhi⟩
  refine ⟨fun hidle => ?_,
    fun hstage hend => exec_envProcess hready (EnvRegs.process_attack_completes hstage hend),
    fun hstage hrun => exec_envProcess hready (EnvRegs.process_attack_runs hstage hrun),
    fun hstage hend => exec_envProcess hready (EnvRegs.process_decay_completes hstage hend),
    fun hstage hrun => exec_envProcess hready (EnvRegs.process_decay_runs hstage hrun)⟩
  rw [exec_envProcess hready (EnvRegs.process_idle hidle), Block.setEnv_self]
  rfl

/-! ### The range of the value -/

/-- A point of the straight line from `x` to `y` after `k` of more than `k` calls lies between its ends. -/
theorem line_mem_uIcc (x y : NUM) {k : Nat} {len : NUM} (hk : k < len) : x + k / len * (y - x) ∈ Set.uIcc x y := by
  have hlen : 0 ≤ len := (Nat.cast_nonneg k).trans hk.le
  rw [← segment_eq_uIcc, segment_eq_image']
  exact ⟨k / len, ⟨div_nonneg (Nat.cast_nonneg k) hlen, div_le_one_of_le₀ hk.le hlen⟩, rfl⟩

theorem EnvRegs.process_mem_uIcc (e : EnvRegs) (a d lo hi : NUM) : (e.process a d lo hi).2 ∈ Set.uIcc lo hi := by
  cases hs : e.stage with
  | idle => rw [process_idle hs]; exact Set.left_mem_uIcc
  | attack =>
    rcases le_or_gt a (e.elapsed + 1 : Nat) with ha | ha
    · rw [process_attack_completes hs ha]; exact Set.right_mem_uIcc
    · rw [process_attack_runs hs ha]; exact line_mem_uIcc lo hi ha
  | decay =>
    rcases le_or_gt d (e.elapsed + 1 : Nat) with hd | hd
    · rw [process_decay_completes hs hd]; exact Set.left_mem_uIcc
    · rw [process_decay_runs hs hd, sub_eq_add_neg, ← mul_neg, neg_sub, Set.uIcc_comm]
      exact line_mem_uIcc hi lo hd

/-- Settles O28: only a completed ENV.PROCESS answers a value, and by `EnvRegs.process_mem_uIcc` it is in range. -/
theorem envelopeValuesStayInRange : Obligations.EnvelopeValuesStayInRange := by
  intro s t inst h lo hi v hlo hhi he hv
  rcases exec_inversion he with ⟨-, -, rfl⟩ | ⟨-, hi, -⟩ | ⟨-, _, rfl⟩ | ⟨-, -, -, hc⟩
  · cases hv
  · cases hi
  · cases hv
  · obtain ⟨⟨_, _⟩, fs, attack, decay, lo', hi', rfl, -, -, -, hlo', hhi', rfl⟩ := hc
    obtain rfl : lo = lo' := Option.some.inj (hlo.symm.trans hlo')
    obtain rfl : hi = hi' := Option.some.inj (hhi.symm.trans hhi')
    obtain rfl := Response.num.inj (Option.some.inj hv)
    obtain ⟨hmin, hmax⟩ := EnvRegs.process_mem_uIcc s.block.env[inst.toNat] (attack * fs) (decay * fs) lo hi
    exact ⟨hmin, hmax, fun hidle => congrArg Prod.snd (EnvRegs.process_idle hidle)⟩

/-! ### What an operation can do to STAGE and ELAPSED -/

/-- Everything a completed operation can do to STAGE and ELAPSED of one envelope: nothing, or it is ENV.TRIGGER or ENV.PROCESS of
that envelope. -/
theorem Completes.stage_cases {i : Instr} {s t : State} (hc : Completes i s t) (j : Fin nEnv) :
    (t.block.env[j].stage = s.block.env[j].stage ∧ t.block.env[j].elapsed = s.block.env[j].elapsed) ∨
    (∃ inst : Nibble, inst.toNat = j.val ∧ i = .envTrigger inst ∧
      t.block.env[j] = { s.block.env[j] with stage := .attack, elapsed := 0 }) ∨
    (∃ inst : Nibble, inst.toNat = j.val ∧ i = .envProcess inst ∧
      ∃ a d lo hi, t.block.env[j] = (s.block.env[j].process a d lo hi).1) := by
  by_cases hother : i.unit ≠ .env ∨ i.inst.toNat ≠ j.val
  · rw [hc.sameOutside.env j hother]
    exact .inl ⟨rfl, rfl⟩
  · obtain ⟨hunit, hinst⟩ : i.unit = .env ∧ i.inst.toNat = j.val := by simpa using hother
    obtain ⟨n, hn⟩ := j
    cases i
    case envSetattack k _ | envSetdecay k _ | envSetmin k _ | envSetmax k _ =>
      obtain rfl : k.toNat = n := hinst
      obtain ⟨⟨_, _⟩, rfl, rfl⟩ := hc
      exact .inl (by simp only [Fin.getElem_fin, State.answer_block, env_setEnv_same, and_self])
    case envTrigger inst =>
      obtain rfl := hinst
      obtain ⟨⟨_, _⟩, rfl, rfl⟩ := hc
      exact .inr (.inl ⟨inst, rfl, rfl, env_setEnv_same ..⟩)
    case envProcess inst =>
      obtain rfl := hinst
      obtain ⟨⟨_, _⟩, fs, attack, decay, lo, hi, rfl, -, -, -, -, -, rfl⟩ := hc
      exact .inr (.inr ⟨inst, rfl, rfl, attack * fs, decay * fs, lo, hi, env_setEnv_same ..⟩)
    all_goals cases hunit

/-- ENV.PROCESS keeps the registers in Idle, and goes on or completes in Attack and Decay (R120). -/
theorem EnvRegs.process_stage (e : EnvRegs) (a d lo hi : NUM) :
    (e.process a d lo hi).1 = e ∨
    (e.stage = .attack ∧ ((e.process a d lo hi).1.stage = .attack ∨ (e.process a d lo hi).1.stage = .decay)) ∨
    (e.stage = .decay ∧ ((e.process a d lo hi).1.stage = .decay ∨ (e.process a d lo hi).1.stage = .idle)) := by
  cases hs : e.stage with
  | idle => exact .inl (congrArg Prod.fst (process_idle hs))
  | attack =>
    rcases le_or_gt a (e.elapsed + 1 : Nat) with ha | ha
    · exact .inr (.inl ⟨rfl, .inr (by rw [process_attack_completes hs ha])⟩)
    · exact .inr (.inl ⟨rfl, .inl (by rw [process_attack_runs hs ha])⟩)
  | decay =>
    rcases le_or_gt d (e.elapsed + 1 : Nat) with hd | hd
    · exact .inr (.inr ⟨rfl, .inr (by rw [process_decay_completes hs hd])⟩)
    · exact .inr (.inr ⟨rfl, .inl (by rw [process_decay_runs hs hd])⟩)

/-- Settles O32: an ignored or faulting operation leaves every envelope, and a completed one is one of `Completes.stage_cases`. -/
theorem stageMovesAsTheStateMachineSays : Obligations.StageMovesAsTheStateMachineSays := by
  intro s t i j he hne
  have hmoved : t.block.env[j] ≠ s.block.env[j] := fun hsame => by simp [hsame] at hne
  rcases exec_inversion he with ⟨-, -, rfl⟩ | ⟨-, -, rfl⟩ | ⟨-, _, rfl⟩ | ⟨-, -, -, hc⟩
  · exact absurd rfl hmoved
  · exact absurd rfl hmoved
  · exact absurd rfl hmoved
  rcases hc.stage_cases j with ⟨hstage, helapsed⟩ | ⟨inst, hinst, rfl, h⟩ | ⟨inst, hinst, rfl, a, d, lo, hi, h⟩
  · exact (hne.elim (· hstage) (· helapsed)).elim
  · exact .inl ⟨inst, hinst, rfl, by rw [h], by rw [h]⟩
  · rw [h] at hmoved ⊢
    exact .inr ⟨inst, hinst, rfl, (EnvRegs.process_stage ..).resolve_left hmoved⟩

/-! ### The envelope after a trigger -/

/-- The calls that a segment of length `len` takes: `nA` and `nD` of R131. -/
def segmentCalls (len : NUM) : Nat := (max 1 ⌈len⌉).toNat

theorem segmentCalls_le_iff {len : NUM} {n : Nat} (hn : 1 ≤ n) : segmentCalls len ≤ n ↔ len ≤ n := by
  simpa only [segmentCalls, threshold, mul_one] using threshold_le_iff len 1 hn

theorem lt_segmentCalls_iff {len : NUM} {n : Nat} (hn : 1 ≤ n) : n < segmentCalls len ↔ n < len := by
  rw [← not_le, segmentCalls_le_iff hn, not_le]

theorem one_le_segmentCalls (len : NUM) : 1 ≤ segmentCalls len := by
  unfold segmentCalls
  omega

theorem segmentCalls_eq_one {len : NUM} (h : len ≤ 1) : segmentCalls len = 1 :=
  le_antisymm ((segmentCalls_le_iff le_rfl).mpr (by simpa using h)) (one_le_segmentCalls len)

/-- The registers after a trigger and `n` calls of ENV.PROCESS, and the value the last of them answers (R131). -/
def envelope (fs attack decay lo hi : NUM) (n : Nat) : EnvRegs × NUM :=
  let nA := segmentCalls (attack * fs)
  let nD := segmentCalls (decay * fs)
  if n < nA then
    (⟨some attack, some decay, some lo, some hi, .attack, n⟩, lo + n / (attack * fs) * (hi - lo))
  else if n < nA + nD then
    (⟨some attack, some decay, some lo, some hi, .decay, n - nA⟩, hi - (n - nA : Nat) / (decay * fs) * (hi - lo))
  else (⟨some attack, some decay, some lo, some hi, .idle, 0⟩, lo)

section
variable {fs attack decay lo hi : NUM} {n : Nat}

theorem envelope_attack (h : n < segmentCalls (attack * fs)) :
    envelope fs attack decay lo hi n =
      (⟨some attack, some decay, some lo, some hi, .attack, n⟩, lo + n / (attack * fs) * (hi - lo)) :=
  if_pos h

theorem envelope_decay (h : segmentCalls (attack * fs) ≤ n) (h' : n < segmentCalls (attack * fs) + segmentCalls (decay * fs)) :
    envelope fs attack decay lo hi n =
      (⟨some attack, some decay, some lo, some hi, .decay, n - segmentCalls (attack * fs)⟩,
        hi - (n - segmentCalls (attack * fs) : Nat) / (decay * fs) * (hi - lo)) :=
  (if_neg (not_lt.mpr h)).trans (if_pos h')

theorem envelope_idle (h : segmentCalls (attack * fs) + segmentCalls (decay * fs) ≤ n) :
    envelope fs attack decay lo hi n = (⟨some attack, some decay, some lo, some hi, .idle, 0⟩, lo) :=
  (if_neg (by omega)).trans (if_neg (not_lt.mpr h))

/-- At call `nA` the attack completes with MAX. -/
theorem envelope_top :
    envelope fs attack decay lo hi (segmentCalls (attack * fs)) =
      (⟨some attack, some decay, some lo, some hi, .decay, 0⟩, hi) := by
  rw [envelope_decay le_rfl (Nat.lt_add_of_pos_right (one_le_segmentCalls _))]
  simp

theorem envelope_zero :
    (envelope fs attack decay lo hi 0).1 = ⟨some attack, some decay, some lo, some hi, .attack, 0⟩ := by
  rw [envelope_attack (one_le_segmentCalls _)]

/-- One more call of ENV.PROCESS is one more call of the envelope. -/
theorem envelope_process (n : Nat) :
    (envelope fs attack decay lo hi n).1.process (attack * fs) (decay * fs) lo hi = envelope fs attack decay lo hi (n + 1) := by
  rcases Nat.lt_or_ge n (segmentCalls (attack * fs)) with hA | hA
  · rw [envelope_attack hA]
    rcases Nat.lt_or_ge (n + 1) (segmentCalls (attack * fs)) with hA' | hA'
    · rw [EnvRegs.process_attack_runs rfl ((lt_segmentCalls_iff (Nat.le_add_left 1 n)).mp hA'), envelope_attack hA']
    · have hlast : n + 1 = segmentCalls (attack * fs) := by omega
      rw [EnvRegs.process_attack_completes rfl ((segmentCalls_le_iff (Nat.le_add_left 1 n)).mp hA'), hlast, envelope_top]
  rcases Nat.lt_or_ge n (segmentCalls (attack * fs) + segmentCalls (decay * fs)) with hD | hD
  · have hcount : n + 1 - segmentCalls (attack * fs) = n - segmentCalls (attack * fs) + 1 := by omega
    rw [envelope_decay hA hD]
    rcases Nat.lt_or_ge (n + 1) (segmentCalls (attack * fs) + segmentCalls (decay * fs)) with hD' | hD'
    · have hrun : n - segmentCalls (attack * fs) + 1 < segmentCalls (decay * fs) := by omega
      rw [EnvRegs.process_decay_runs rfl ((lt_segmentCalls_iff (Nat.le_add_left 1 _)).mp hrun),
        envelope_decay (by omega) hD', hcount]
    · have hend : segmentCalls (decay * fs) ≤ n - segmentCalls (attack * fs) + 1 := by omega
      rw [EnvRegs.process_decay_completes rfl ((segmentCalls_le_iff (Nat.le_add_left 1 _)).mp hend), envelope_idle hD']
  · rw [envelope_idle hD, EnvRegs.process_idle rfl, envelope_idle (by omega)]

/-- The four configuration registers are the same at every call. -/
theorem EnvReady.of_envelope {s : State} {inst : Nibble} {h : inst.toNat < nEnv} (hs : Safe s) (hfs : s.block.sys.fs = some fs)
    (he : s.block.env[inst.toNat] = (envelope fs attack decay lo hi n).1) : EnvReady s inst h fs attack decay lo hi := by
  refine ⟨hs, hfs, ?_, ?_, ?_, ?_⟩ <;> rw [he, envelope] <;> split_ifs <;> rfl

/-- A trigger and `n` calls of ENV.PROCESS bring the envelope to call `n`. -/
theorem execAll_envelope {s : State} {inst : Nibble} {h : inst.toNat < nEnv} (hs : EnvReady s inst h fs attack decay lo hi)
    (n : Nat) :
    ∃ t, execAll (.envTrigger inst :: List.replicate n (.envProcess inst)) s = .next t ∧
      EnvReady t inst h fs attack decay lo hi ∧ t.block.env[inst.toNat] = (envelope fs attack decay lo hi n).1 ∧
      (1 ≤ n → t.resp = some (.num (envelope fs attack decay lo hi n).2)) := by
  induction n with
  | zero =>
    refine ⟨_, execAll_cons [] (exec_envTrigger hs.safe h), ?_⟩
    have he : { s.block.env[inst.toNat] with stage := .attack, elapsed := 0 } = (envelope fs attack decay lo hi 0).1 := by
      simp only [envelope_zero, hs.attack, hs.decay, hs.min, hs.max]
    rw [he]
    exact ⟨.of_envelope hs.safe hs.fs (env_setEnv_same ..), env_setEnv_same .., nofun⟩
  | succ n ih =>
    obtain ⟨t, ht, hready, he, -⟩ := ih
    have hlast := exec_envProcess hready (he ▸ envelope_process n)
    rw [List.replicate_succ', ← List.cons_append, execAll_append, ht, andThen_next, execAll_cons [] hlast]
    exact ⟨_, rfl, .of_envelope hready.safe hready.fs (env_setEnv_same ..), env_setEnv_same .., fun _ => rfl⟩

end

/-- Settles O31: `execAll_envelope` leads to call `n` of the envelope, and the four ranges are its branches. -/
theorem fullEnvelopeLengthAndValues : Obligations.FullEnvelopeLengthAndValues := by
  intro s inst h fs attack decay lo hi n hs hfs hattack hdecay hlo hhi hn nA nD
  obtain ⟨t, ht, -, he, hresp⟩ := execAll_envelope (h := h) ⟨hs, hfs, hattack, hdecay, hlo, hhi⟩ n
  refine ⟨t, ht, ?_⟩
  dsimp only
  rw [he, hresp hn]
  refine ⟨fun hup => ?_, fun htop => ?_, fun hdown hend => ?_, fun hidle => ?_⟩
  · rw [envelope_attack hup]
    exact ⟨rfl, rfl, rfl⟩
  · have htop : n = segmentCalls (attack * fs) := htop
    rw [htop, envelope_top]
    exact ⟨rfl, rfl, rfl⟩
  · rw [envelope_decay hdown.le hend]
    exact ⟨rfl, rfl, rfl⟩
  · rw [envelope_idle hidle]
    exact ⟨rfl, rfl, rfl⟩

/-! ### The first call after a trigger, and segments of one call -/

section
variable {s : State} {inst : Nibble} {h : inst.toNat < nEnv} {fs attack decay lo hi : NUM}
  (hs : EnvReady s inst h fs attack decay lo hi)
include hs

/-- An attack of length at most 1 answers MAX at the first call. -/
theorem execAll_short_attack (hA : attack * fs ≤ 1) :
    ∃ t, execAll [.envTrigger inst, .envProcess inst] s = .next t ∧ EnvReady t inst h fs attack decay lo hi ∧
      t.resp = some (.num hi) ∧ t.block.env[inst.toNat].stage = .decay ∧ t.block.env[inst.toNat].elapsed = 0 := by
  obtain ⟨t, ht, hready, he, hresp⟩ := execAll_envelope hs 1
  have htop := envelope_top (fs := fs) (attack := attack) (decay := decay) (lo := lo) (hi := hi)
  rw [segmentCalls_eq_one hA] at htop
  rw [htop] at he hresp
  exact ⟨t, ht, hready, hresp le_rfl, by rw [he], by rw [he]⟩

/-- A decay of length at most 1 answers MIN at the first call. -/
theorem exec_short_decay (hD : decay * fs ≤ 1) (hstage : s.block.env[inst.toNat].stage = .decay) :
    ∃ t, exec (.envProcess inst) s = .next t ∧ t.resp = some (.num lo) ∧
      t.block.env[inst.toNat].stage = .idle ∧ t.block.env[inst.toNat].elapsed = 0 := by
  have hend : decay * fs ≤ (s.block.env[inst.toNat].elapsed + 1 : Nat) :=
    hD.trans (by exact_mod_cast Nat.le_add_left 1 _)
  refine ⟨_, exec_envProcess hs (EnvRegs.process_decay_completes hstage hend), rfl, ?_, ?_⟩ <;>
    rw [State.answer_block, env_setEnv_same]

end

/-- With a time not above 0 and FS above 0 a segment is of length at most 1. -/
theorem segment_le_one {time fs : NUM} (htime : time ≤ 0) (hfs : 0 < fs) : time * fs ≤ 1 :=
  (mul_nonpos_of_nonpos_of_nonneg htime hfs.le).trans zero_le_one

/-- Settles O30: the short attack and the short decay, one after the other for times not above 0. -/
theorem zeroLengthSegmentsTakeOneCall : Obligations.ZeroLengthSegmentsTakeOneCall := by
  intro s inst h fs attack decay lo hi hs hfs hattack hdecay hlo hhi
  have hready : EnvReady s inst h fs attack decay lo hi := ⟨hs, hfs, hattack, hdecay, hlo, hhi⟩
  refine ⟨fun hA => ?_, exec_short_decay hready, fun hA hD hpos => ?_⟩
  · obtain ⟨t, ht, -, hend⟩ := execAll_short_attack hready hA
    exact ⟨t, ht, hend⟩
  · obtain ⟨t, ht, hready', hresp, hstage, -⟩ := execAll_short_attack hready (segment_le_one hA hpos)
    obtain ⟨u, hu, hresp', hstage', -⟩ := exec_short_decay hready' (segment_le_one hD hpos) hstage
    exact ⟨t, u, ht, hresp, hu, hresp', hstage'⟩

/-- A step from `lo` is closer to `lo` than to a point more than two such steps from `lo`. -/
theorem abs_step_lt {lo step prior : NUM} (hfar : 2 * |step| < |prior - lo|) :
    |lo + step - lo| < |lo + step - prior| := by
  have htriangle : |prior - lo| ≤ |prior - (lo + step)| + |lo + step - lo| := abs_sub_le prior (lo + step) lo
  rw [abs_sub_comm prior (lo + step), add_sub_cancel_left] at htriangle
  rw [add_sub_cancel_left]
  linarith

/-- Settles O29: the first call of an attack longer than 1 is below `nA`, and its step is `|MAX - MIN| / A` (`abs_step_lt`); a
zero-length attack is short. -/
theorem retriggerRestartsFromMin : Obligations.RetriggerRestartsFromMin := by
  intro s inst h fs attack decay lo hi hs hfs hattack hdecay hlo hhi
  have hready : EnvReady s inst h fs attack decay lo hi := ⟨hs, hfs, hattack, hdecay, hlo, hhi⟩
  obtain ⟨t, ht, -, -, hresp⟩ := execAll_envelope hready 1
  refine ⟨t, ht, fun hA => ⟨?_, fun prior hfar => abs_step_lt ?_⟩, fun hA hpos => ?_⟩
  · rw [hresp le_rfl, envelope_attack ((lt_segmentCalls_iff le_rfl).mpr (by simpa using hA)), Nat.cast_one]
  · have hlen : 0 < attack * fs := zero_lt_one.trans hA
    rwa [abs_mul, abs_of_pos (one_div_pos.mpr hlen), one_div_mul_eq_div, ← mul_div_assoc]
  · obtain ⟨t', ht', -, htop, -⟩ := execAll_short_attack hready (segment_le_one hA hpos)
    obtain rfl := Host.Outcome.next.inj (ht.symm.trans ht')
    exact htop

end Sys2Proof.Machine
end

section
/-! OSC (42_oscillator.md R150 to R157): the operations as equations; the values of the shape functions and their peaks; and where
the phase stands after any number of calls. -/

namespace Sys2Proof.Machine

/-! ### The operations on a block that is not halted -/

/-- The block has no fault, and the four registers that OSC.PROCESS reads hold these values (R156). -/
structure OscReady (s : State) (fs freq amp : NUM) (w : Waveform) : Prop where
  safe : Safe s
  fs : s.block.sys.fs = some fs
  wave : s.block.osc.wave = some w
  freq : s.block.osc.freq = some freq
  amp : s.block.osc.amp = some amp

section
variable {s : State} (hs : Safe s)
include hs

theorem exec_oscSetwave (w : Waveform) :
    exec (.oscSetwave 0 w) s =
      .next (State.answer { s with block := { s.block with osc := { s.block.osc with wave := some w } } } .empty) := by
  rw [exec, execOscSetwave, check_performs hs (by decide)]

theorem exec_oscSetfreq (f : NUM) :
    exec (.oscSetfreq 0 f) s =
      .next (State.answer { s with block := { s.block with osc := { s.block.osc with freq := some f } } } .empty) := by
  rw [exec, execOscSetfreq, check_performs hs (by decide)]

theorem exec_oscSetamp (a : NUM) :
    exec (.oscSetamp 0 a) s =
      .next (State.answer { s with block := { s.block with osc := { s.block.osc with amp := some a } } } .empty) := by
  rw [exec, execOscSetamp, check_performs hs (by decide)]

theorem exec_oscProcess_unwritten
    (hnone : s.block.sys.fs = none ∨ s.block.osc.wave = none ∨ s.block.osc.freq = none ∨ s.block.osc.amp = none) :
    exec (.oscProcess 0) s = .next (s.raise .unconfigured (Instr.oscProcess 0).word) := by
  rcases exec_performs (i := .oscProcess 0) hs (by decide) with ⟨_, _, -, hi, -⟩ | ⟨-, hraise⟩ | ⟨hmet, -⟩
  · cases hi
  · exact hraise
  · exact absurd hnone hmet

end

theorem exec_oscProcess {s : State} {fs freq amp : NUM} {w : Waveform} (hs : OscReady s fs freq amp w) :
    exec (.oscProcess 0) s =
      .next (State.answer { s with
        block := { s.block with osc := { s.block.osc with phase := frac (s.block.osc.phase + freq / fs) } } }
        (.num (amp * waveOf s.shape w (frac (s.block.osc.phase + freq / fs)) (freq / fs)))) := by
  rw [exec, execOscProcess, oscProcessWith, check_performs hs.safe (by decide)]
  simp only [hs.fs, hs.wave, hs.freq, hs.amp]

/-- An OSC.PROCESS that answers a sample has run on written registers: an ignored or a faulting one answers nothing. -/
theorem exec_oscProcess_answers {s t : State} {v : NUM} (h : exec (.oscProcess 0) s = .next t) (hv : t.resp = some (.num v)) :
    ∃ (fs freq amp : NUM) (w : Waveform), s.block.osc.amp = some amp ∧
      v = amp * waveOf s.shape w (frac (s.block.osc.phase + freq / fs)) (freq / fs) := by
  rcases exec_inversion h with ⟨-, -, rfl⟩ | ⟨-, hi, -⟩ | ⟨-, _, rfl⟩ | ⟨-, -, -, fs, freq, amp, w, -, -, -, hamp, rfl⟩
  · cases hv
  · cases hi
  · cases hv
  · cases hv
    exact ⟨fs, freq, amp, w, hamp, rfl⟩

/-- Settles O33, by the equation of each setter. -/
theorem oscillatorSetters : Obligations.OscillatorSetters := fun _ hs =>
  ⟨fun w => ⟨by cases w <;> rfl, exec_oscSetwave hs w⟩, fun f => ⟨rfl, exec_oscSetfreq hs f⟩,
    fun a => ⟨rfl, exec_oscSetamp hs a⟩⟩

/-- Settles O34: with the registers written `exec_oscProcess` advances by whole turns and the wrapped phase, without one of them
`exec_oscProcess_unwritten`. -/
theorem oscillatorProcessAdvancesThenEvaluates : Obligations.OscillatorProcessAdvancesThenEvaluates := by
  refine fun s hs => ⟨rfl, fun fs freq amp w hfs _ hwave hfreq hamp => ?_, exec_oscProcess_unwritten hs⟩
  exact ⟨frac (s.block.osc.phase + freq / fs), frac_nonneg _, frac_lt_one _,
    ⟨⌊s.block.osc.phase + freq / fs⌋, (Int.floor_add_fract _).symm⟩, exec_oscProcess ⟨hs, hfs, hwave, hfreq, hamp⟩⟩

/-! ### Wrapping the phase -/

theorem frac_eq_self {p : NUM} (h0 : 0 ≤ p) (h1 : p < 1) : frac p = p :=
  Int.fract_eq_self.mpr ⟨h0, h1⟩

/-- The fraction of a sum may be taken of one part first. -/
theorem frac_frac_add (p q : NUM) : frac (frac p + q) = frac (p + q) :=
  Int.fract_eq_fract.mpr ⟨-⌊p⌋, by rw [frac]; push_cast; ring⟩

/-! ### The values of the shape functions -/

theorem sine_zero : sine 0 = 0 := if_pos rfl

theorem sine_quarter : sine (1 / 4) = 1 := by
  norm_num [sine]

theorem sine_half : sine (1 / 2) = 0 := by
  norm_num [sine]

theorem sine_three_quarters : sine (3 / 4) = -1 := by
  norm_num [sine]

theorem abs_sine_le (p : NUM) : |sine p| ≤ 1 := by
  unfold sine
  split_ifs
  case neg => exact abs_cutToOne_le _
  all_goals norm_num

/-- Settles O35: the table is the definition, and the bound on SINE is `abs_sine_le`. -/
theorem defaultWaveShapes : Obligations.DefaultWaveShapes :=
  ⟨fun _ _ => ⟨rfl, rfl, rfl, rfl⟩, sine_zero, sine_quarter, sine_half, sine_three_quarters, fun p => abs_le.mp (abs_sine_le p)⟩

/-! ### The peak of a cycle -/

theorem abs_wave_le (w : Waveform) {p : NUM} (inc : NUM) (h0 : 0 ≤ p) (h1 : p < 1) : |wave w p inc| ≤ 1 := by
  cases w <;> simp only [wave]
  case triangle =>
    have hslope : |4 * p - 2| ≤ 2 := abs_le.mpr ⟨by linarith, by linarith⟩
    exact abs_le.mpr ⟨by linarith [abs_nonneg (4 * p - 2)], by linarith⟩
  case sine => exact abs_sine_le p
  case saw => exact abs_le.mpr ⟨by linarith, by linarith⟩
  case square => split_ifs <;> norm_num

/-- A phase at which each default shape has magnitude 1. -/
def defaultPeak : Waveform → NUM
  | .sine => 1 / 4
  | .triangle | .saw | .square => 0

theorem abs_wave_defaultPeak (w : Waveform) (inc : NUM) : |wave w (defaultPeak w) inc| = 1 := by
  cases w <;> norm_num [wave, defaultPeak, sine_quarter]

theorem abs_otherWave_peak (k : Nat) (w : Waveform) (inc : NUM) :
    |otherWave k w (frac (Config.wavePeakPhase k w.code inc)) inc| = 1 := by
  rw [otherWave, if_pos rfl]
  split_ifs <;> norm_num

theorem abs_otherWave_le (k : Nat) (w : Waveform) (p inc : NUM) : |otherWave k w p inc| ≤ 1 := by
  by_cases hp : p = frac (Config.wavePeakPhase k w.code inc)
  · rw [hp, abs_otherWave_peak]
  · rw [otherWave, if_neg hp]
    exact abs_cutToOne_le _

/-- Every shape the parameter WAVE can select has peak magnitude 1 (R150). -/
theorem waveOf_peakOne (shape : Shape) : PeakOne (waveOf shape) := by
  intro w inc
  cases shape with
  | default =>
    refine ⟨fun p => abs_wave_le w inc, defaultPeak w, ?_, ?_, abs_wave_defaultPeak w inc⟩ <;>
      cases w <;> norm_num [defaultPeak]
  | other k =>
    exact ⟨fun p _ _ => abs_otherWave_le k w p inc, _, frac_nonneg _, frac_lt_one _, abs_otherWave_peak k w inc⟩

/-- Settles O36: the bound of a sample is `|AMP|` times that of its shape, and the phase one increment before the peak of
`waveOf_peakOne` reaches it (`frac_frac_add`). -/
theorem wavePeaksAtOneAndAmpScalesIt : Obligations.WavePeaksAtOneAndAmpScalesIt := by
  refine ⟨waveOf_peakOne, fun s t amp v _ hamp h hv => ?_, fun s fs freq amp w hs hfs _ hwave hfreq hamp => ?_⟩
  · obtain ⟨fs, freq, amp', w, hamp', rfl⟩ := exec_oscProcess_answers h hv
    obtain rfl := Option.some.inj (hamp.symm.trans hamp')
    have hbound := (waveOf_peakOne s.shape w (freq / fs)).1 _ (frac_nonneg (s.block.osc.phase + freq / fs)) (frac_lt_one _)
    rw [abs_mul]
    exact mul_le_of_le_one_right (abs_nonneg amp) hbound
  · obtain ⟨-, p, h0, h1, hpeak⟩ := waveOf_peakOne s.shape w (freq / fs)
    refine ⟨frac (p - freq / fs), _, _, frac_nonneg _, frac_lt_one _, exec_oscProcess ⟨hs, hfs, hwave, hfreq, hamp⟩, rfl, ?_⟩
    dsimp only
    rw [frac_frac_add, sub_add_cancel, frac_eq_self h0 h1, abs_mul, hpeak, mul_one]

/-! ### The phase after `n` calls -/

/-- `n` calls of OSC.PROCESS advance the phase by `n` increments, wrapped. -/
theorem execAll_oscProcess {s : State} {fs freq amp : NUM} {w : Waveform} (hs : OscReady s fs freq amp w)
    (h0 : 0 ≤ s.block.osc.phase) (h1 : s.block.osc.phase < 1) (n : Nat) :
    ∃ t, execAll (List.replicate n (.oscProcess 0)) s = .next t ∧ OscReady t fs freq amp w ∧
      t.block.osc.phase = frac (s.block.osc.phase + n * (freq / fs)) := by
  induction n with
  | zero =>
    refine ⟨s, rfl, hs, ?_⟩
    rw [Nat.cast_zero, zero_mul, add_zero, frac_eq_self h0 h1]
  | succ n ih =>
    obtain ⟨t, ht, hready, hphase⟩ := ih
    rw [List.replicate_succ', execAll_append, ht, andThen_next, execAll_cons [] (exec_oscProcess hready)]
    refine ⟨_, rfl, ⟨hready.safe, hready.fs, hready.wave, hready.freq, hready.amp⟩, ?_⟩
    rw [State.answer_block, hphase, frac_frac_add, Nat.cast_succ, add_one_mul, add_assoc]

/-- `n` times a rational is an integer exactly when its denominator in lowest terms divides `n`. -/
theorem exists_natCast_mul_eq_intCast_iff (n : Nat) (q : NUM) : (∃ z : Int, n * q = z) ↔ q.den ∣ n := by
  constructor
  · rintro ⟨z, hz⟩
    have hnum : (n : Int) * q.num = z * q.den := by
      have : (n : NUM) * q.num = z * q.den := by rw [← Rat.mul_den_eq_num, ← mul_assoc, hz]
      exact_mod_cast this
    have hcoprime : IsCoprime (q.den : Int) q.num := Int.isCoprime_iff_nat_coprime.mpr q.reduced.symm
    exact Int.natCast_dvd_natCast.mp (hcoprime.dvd_of_dvd_mul_right ⟨z, hnum.trans (mul_comm ..)⟩)
  · rintro ⟨k, rfl⟩
    refine ⟨k * q.num, ?_⟩
    rw [Int.cast_mul, ← Rat.mul_den_eq_num]
    push_cast
    ring

/-- Settles O37: the phase after `n` calls (`execAll_oscProcess`) is the old one exactly when `n` increments are whole turns. -/
theorem phaseReturnsAfterTheDenominator : Obligations.PhaseReturnsAfterTheDenominator := by
  intro s fs freq amp w n hs h0 h1 hfs _ hwave hfreq hamp
  obtain ⟨t, ht, -, hphase⟩ := execAll_oscProcess ⟨hs, hfs, hwave, hfreq, hamp⟩ h0 h1 n
  refine ⟨t, ht, ?_⟩
  rw [hphase]
  refine ⟨⟨_, (Int.floor_add_fract _).symm⟩, frac_nonneg _, frac_lt_one _, ?_⟩
  rw [← exists_natCast_mul_eq_intCast_iff, frac_eq_fract, Int.fract_eq_iff, add_sub_cancel_left]
  exact ⟨fun ⟨_, _, hturns⟩ => hturns, fun hturns => ⟨h0, h1, hturns⟩⟩

end Sys2Proof.Machine
end

section
/-! NOISE (43_noise_generator.md R170 to R174): the two operations as equations, the shifts of a NOISE.PROCESS, and the sample. -/

namespace Sys2Proof.Machine

/-! ### The operations on a block that is not halted -/

section
variable {s : State} (hs : Safe s)
include hs

theorem exec_noiseSeed (seed : Word) :
    exec (.noiseSeed 0 seed) s = .next (State.answer
      { s with block := { s.block with noise := ⟨if seed = 0 then Config.lfsrSeed else seed⟩ } } .empty) := by
  rw [exec, execNoiseSeed, check_performs hs (by decide)]

theorem exec_noiseProcess :
    exec (.noiseProcess 0) s = .next (State.answer
      { s with block := { s.block with noise := ⟨lfsrShift Config.lfsrSteps s.block.noise.lfsr⟩ } }
      (.num (noiseSample (lfsrShift Config.lfsrSteps s.block.noise.lfsr)))) := by
  rw [exec, execNoiseProcess, check_performs hs (by decide)]

end

/-- Settles O39: the equation of NOISE.SEED, once for each side of its test of the seed. -/
theorem seedLoadsTheRegister : Obligations.SeedLoadsTheRegister := by
  refine fun s seed hs => ⟨rfl, fun hzero => ?_, fun hseed => ?_⟩ <;> rw [exec_noiseSeed hs]
  · rw [if_pos hzero]
    rfl
  · rw [if_neg hseed]
    rfl

/-! ### The shifts -/

/-- Settles O38, by `getLsbD_lfsrStep`. -/
theorem shiftDropsBitZeroAndFeedsBitFifteen : Obligations.ShiftDropsBitZeroAndFeedsBitFifteen := by
  refine fun l => ⟨fun k hk => ?_, ?_⟩
  · rw [getLsbD_lfsrStep l (by omega), if_neg (by omega)]
  · rw [getLsbD_lfsrStep l (by omega), if_pos rfl, lfsrFeedback_eq]

theorem lfsrShift_eq_iterate (n : Nat) (l : Word) : lfsrShift n l = lfsrStep^[n] l := by
  induction n generalizing l with
  | zero => rfl
  | succ n ih => exact ih (lfsrStep l)

/-! ### The sample -/

/-- The sample with its sign bit written out (R171): bit 15 weighs `-2 ^ 15`. -/
theorem noiseSample_eq (l : Word) :
    noiseSample l = ((if l.getLsbD 15 then (l.toNat : Int) - 65536 else l.toNat : Int) : NUM) / 32768 := by
  rw [noiseSample, BitVec.toInt_eq_msb_cond, BitVec.msb_eq_getLsbD_last]
  rfl

/-- Settles O40: the equation of NOISE.PROCESS, its shifts as an iteration and its sample read from the bits. -/
theorem noiseProcessShiftsSixteenTimes : Obligations.NoiseProcessShiftsSixteenTimes := by
  refine fun s hs => ⟨rfl, ?_⟩
  rw [exec_noiseProcess hs, lfsrShift_eq_iterate, noiseSample_eq]
  rfl

theorem neg_one_le_noiseSample (l : Word) : -1 ≤ noiseSample l := by
  have hint : -32768 ≤ l.toInt := BitVec.le_toInt l
  have hnum : (-32768 : NUM) ≤ l.toInt := by exact_mod_cast hint
  rw [noiseSample]
  linarith

theorem noiseSample_le (l : Word) : noiseSample l ≤ 32767 / 32768 := by
  have hint : l.toInt ≤ 32767 := Int.lt_add_one_iff.mp BitVec.toInt_lt
  have hnum : (l.toInt : NUM) ≤ 32767 := by exact_mod_cast hint
  rw [noiseSample]
  linarith

theorem noiseSample_ne_zero {l : Word} (h : l ≠ 0) : noiseSample l ≠ 0 :=
  div_ne_zero (Int.cast_ne_zero.mpr (BitVec.toInt_ne.mpr h)) (by norm_num)

/-! ### No operation makes the register zero -/

/-- Only the two operations of NOISE write the register; the others leave the unit as it was (`Completes.sameOutside`). -/
theorem Completes.lfsr_ne_zero {i : Instr} {s t : State} (h : Completes i s t) (hl : s.block.noise.lfsr ≠ 0) :
    t.block.noise.lfsr ≠ 0 := by
  cases i
  case noiseSeed seed => obtain rfl := h; exact loadedSeed_ne_zero seed
  case noiseProcess => obtain rfl := h; exact lfsrShift_ne_zero _ hl
  all_goals rwa [h.sameOutside.noise nofun]

/-- An ignored operation and one that raises a fault leave the register alone. -/
theorem exec_keeps_lfsr_ne_zero {i : Instr} {s t : State} (h : exec i s = .next t) (hl : s.block.noise.lfsr ≠ 0) :
    t.block.noise.lfsr ≠ 0 := by
  rcases exec_inversion h with ⟨-, -, rfl⟩ | ⟨-, -, rfl⟩ | ⟨-, _, rfl⟩ | ⟨-, -, -, hc⟩
  · exact hl
  · exact hl
  · exact hl
  · exact hc.lfsr_ne_zero hl

/-- Settles O41: a shift to zero starts from zero (`eq_zero_of_lfsrStep_eq_zero`), a sample is bounded as its signed register is,
and every operation leaves the register non-zero (`exec_keeps_lfsr_ne_zero`). -/
theorem noiseNeverLocksUpAndStaysInRange : Obligations.NoiseNeverLocksUpAndStaysInRange :=
  ⟨fun _ => mt eq_zero_of_lfsrStep_eq_zero, fun l => ⟨neg_one_le_noiseSample l, noiseSample_le l, noiseSample_ne_zero⟩,
    fun _ _ _ hl h => exec_keeps_lfsr_ne_zero h hl⟩

end Sys2Proof.Machine
end

section
/-! MIX (44_voice_mixer.md R181 to R185): MIX.SETMODE as an equation, the voices' share of the output, and its bounds. -/

namespace Sys2Proof.Machine

/-! ### The operations -/

theorem exec_mixSetmode {s : State} (hs : Safe s) (m : MixMode) :
    exec (.mixSetmode 0 m) s = .next (State.answer { s with block := { s.block with mix := ⟨m⟩ } } .empty) := by
  rw [exec, execMixSetmode, check_performs hs (by decide)]

/-- Settles O42: the word of each mode, and the equation of MIX.SETMODE. -/
theorem setmodeWritesTheMode : Obligations.SetmodeWritesTheMode := by
  refine fun s m hs => ⟨?_, exec_mixSetmode hs m⟩
  cases m <;> rfl

/-- Settles O43: the equation of MIX.PROCESS (`exec_mixProcess`), its frame and its count written out. -/
theorem mixProcessFollowsTheMode : Obligations.MixProcessFollowsTheMode :=
  fun _ click bass snare noise env hs => ⟨rfl, exec_mixProcess hs click bass snare noise env⟩

/-! ### The output -/

/-- OBSERVED mode hears the click alone. -/
@[simp] theorem oscMix_observed (click bass snare : NUM) : oscMix .observed click bass snare = click := rfl

@[simp] theorem activeCount_click_alone (click : NUM) : activeCount click 0 0 = if click = 0 then 0 else 1 := by
  by_cases hclick : click = 0 <;> simp [activeCount, nonZero, hclick]

/-- With bass and snare at zero either mode hears the click as it is: in AVERAGE mode it is the mean of at most one voice. -/
@[simp] theorem oscMix_click_alone (m : MixMode) (click : NUM) : oscMix m click 0 0 = click := by
  cases m with
  | observed => rfl
  | average => by_cases hclick : click = 0 <;> simp [oscMix, hclick]

/-- Settles O44: OBSERVED mode has the click for its `oscMix`, and so have both modes when bass and snare are zero. -/
theorem observedModeDiscardsBassAndSnare : Obligations.ObservedModeDiscardsBassAndSnare :=
  ⟨fun _ _ _ _ _ _ _ => by simp only [mixOut, oscMix_observed],
    fun _ _ _ => by simp only [mixOut, oscMix_click_alone]⟩

/-- Settles O46: `oscMix` is the click in each of the identities, and the click or the noise bus is zero. -/
theorem mixEndToEndIdentities : Obligations.MixEndToEndIdentities := by
  refine ⟨fun m noise env => ?_, fun click bass snare noise => ?_, fun click noise => ?_⟩
  · rw [mixOut, oscMix_click_alone]
    ring
  · rw [mixOut, oscMix_observed]
    ring
  · rw [mixOut, oscMix_click_alone]
    ring

/-- The triangle inequality for the two buses (R184). -/
theorem abs_mixOut_le (m : MixMode) (click bass snare noise env : NUM) :
    |mixOut m click bass snare noise env| ≤ 1 / 2 * |noise| * |env| + 1 / 2 * |oscMix m click bass snare| := by
  have hhalf : |(1 / 2 : NUM)| = 1 / 2 := abs_of_pos one_half_pos
  calc |1 / 2 * (noise * env) + 1 / 2 * oscMix m click bass snare|
      ≤ |1 / 2 * (noise * env)| + |1 / 2 * oscMix m click bass snare| := abs_add_le _ _
    _ = 1 / 2 * |noise| * |env| + 1 / 2 * |oscMix m click bass snare| := by
      rw [abs_mul, abs_mul, abs_mul, hhalf, mul_assoc]

/-- Settles O45: the general bound (`abs_mixOut_le`), where under the preconditions each bus contributes at most one half. -/
theorem mixHeadroom : Obligations.MixHeadroom := by
  refine ⟨abs_mixOut_le, fun click bass snare noise env hnoise henv0 henv1 hclick => ?_⟩
  have hbound := abs_mixOut_le .observed click bass snare noise env
  have hbus : |noise| * |env| ≤ 1 := mul_le_one₀ hnoise (abs_nonneg env) (abs_le.mpr ⟨by linarith, henv1⟩)
  rw [oscMix_observed] at hbound
  linarith

end Sys2Proof.Machine
end

section
/-! SYS (45_system_and_sequencer.md R190, R191): SYS.STATUS by the record, SYS.SETFS by its operand. -/

namespace Sys2Proof.Machine

/-! ### SYS.STATUS -/

theorem Block.statusResponse_of_none {b : Block} (h : b.sys.fault = none) : b.statusResponse = .status false 0 0x0000 := by
  simp only [statusResponse, faulted, h, Option.isSome_none]

theorem Block.statusResponse_of_some {b : Block} {r : FaultRecord} (h : b.sys.fault = some r) :
    b.statusResponse = .status true r.cause.code r.cw := by
  simp only [statusResponse, faulted, h, Option.isSome_some]

/-- Settles O16: INST 0 is answered from the record (`exec_status`), another INST has no instance, and a non-zero FIELD of UNIT 0
OP 0 is on the list of R88. -/
theorem statusReportsTheRecord : Obligations.StatusReportsTheRecord := by
  refine ⟨rfl, ⟨rfl, rfl, rfl, rfl⟩, fun s => ⟨fun hnone => ?_, fun r hsome => ?_, fun inst hinst hs => ?_,
    fun inst fld operands hfld hs => ?_⟩⟩
  · rw [exec_status, Block.statusResponse_of_none hnone]
    rfl
  · rw [exec_status, Block.statusResponse_of_some hsome]
    rfl
  · have hmissing : nSys ≤ inst.toNat := Nat.pos_of_ne_zero fun hzero => hinst (BitVec.eq_of_toNat_eq hzero)
    exact exec_missing hs hmissing
  · have hlisted : WordListedReserved (packWord 0 0 inst fld) := by
      have hfld : fld.toNat ≠ 0 := fun hzero => hfld (BitVec.eq_of_toNat_eq hzero)
      simp [WordListedReserved, ListedReserved, hfld]
    exact execute_of_reserved (decode_eq_reserved_iff.mpr hlisted) hs

/-! ### SYS.SETFS -/

/-- SYS.SETFS 0 of a block that is not halted tests its operand and nothing else (R191). -/
theorem exec_sysSetfs {s : State} (hs : Safe s) (v : NUM) :
    exec (.sysSetfs 0 v) s =
      if v ≤ 0 then .next (s.raise .badConfig 0x0100)
      else .next (State.answer { s with block := { s.block with sys := { s.block.sys with fs := some v } } } .empty) := by
  rw [exec, execSysSetfs, check_performs hs (by decide)]
  rfl

/-- Settles O17: the equation of SYS.SETFS, once for each side of its test of the operand. -/
theorem setfsWritesAPositiveRate : Obligations.SetfsWritesAPositiveRate := by
  refine fun s v hs => ⟨rfl, fun hpos => ?_, fun hnonpos => ?_⟩ <;> rw [exec_sysSetfs hs]
  · rw [if_neg (not_le.mpr hpos)]
    rfl
  · rw [if_pos hnonpos]
    rfl

end Sys2Proof.Machine
end

section
/-! Operations on different instances commute (45_system_and_sequencer.md R193): an operation reads its own instance and SYS only
(`SameInside`), and writes its own instance only (`SameOutside`). -/

namespace Sys2Proof.Machine

/-! ### What an operation reads -/

/-- `b'` has the registers of `b` in the unit and instance that `i` names, and in SYS. -/
structure SameInside (i : Instr) (b b' : Block) : Prop where
  sys : b'.sys = b.sys
  edge : ∀ k : Fin nEdge, i.unit = .edge → i.inst.toNat = k.val → b'.edge[k] = b.edge[k]
  env : ∀ j : Fin nEnv, i.unit = .env → i.inst.toNat = j.val → b'.env[j] = b.env[j]
  osc : i.unit = .osc → b'.osc = b.osc
  noise : i.unit = .noise → b'.noise = b.noise
  mix : i.unit = .mix → b'.mix = b.mix

section
variable {i : Instr} {b b' : Block} (h : SameInside i b b')
include h

theorem SameInside.symm : SameInside i b' b :=
  ⟨h.sys.symm, fun k hu hk => (h.edge k hu hk).symm, fun j hu hj => (h.env j hu hj).symm, fun hu => (h.osc hu).symm,
    fun hu => (h.noise hu).symm, fun hu => (h.mix hu).symm⟩

theorem SameInside.setEdge {k : Fin nEdge} (e : EdgeRegs) (hk : i.inst.toNat = k.val) :
    SameInside i (b.setEdge k e) (b'.setEdge k e) where
  __ := h
  edge k' _ hk' := by
    obtain rfl : k = k' := Fin.ext (hk.symm.trans hk')
    simp only [edge_setEdge, if_true]

theorem SameInside.setEnv {j : Fin nEnv} (e : EnvRegs) (hj : i.inst.toNat = j.val) :
    SameInside i (b.setEnv j e) (b'.setEnv j e) where
  __ := h
  env j' _ hj' := by
    obtain rfl : j = j' := Fin.ext (hj.symm.trans hj')
    simp only [env_setEnv, if_true]

theorem SameInside.setOsc (o : OscRegs) : SameInside i { b with osc := o } { b' with osc := o } :=
  { h with osc := fun _ => rfl }

theorem SameInside.setNoise (n : NoiseRegs) : SameInside i { b with noise := n } { b' with noise := n } :=
  { h with noise := fun _ => rfl }

theorem SameInside.setMix (m : MixRegs) : SameInside i { b with mix := m } { b' with mix := m } :=
  { h with mix := fun _ => rfl }

theorem SameInside.unmet (hu : Unmet i b') : Unmet i b := by
  cases i
  case edgeDebounce =>
    obtain ⟨k, hk, hnone⟩ := hu
    exact ⟨k, hk, h.edge k rfl hk ▸ hnone⟩
  case envProcess =>
    obtain ⟨j, hj, hnone⟩ := hu
    rw [h.env j rfl hj, h.sys] at hnone
    exact ⟨j, hj, hnone⟩
  case oscProcess =>
    rw [Unmet, h.osc rfl, h.sys] at hu
    exact hu
  all_goals exact hu

end

/-- A completed operation does the same to its instance, and answers the same, wherever its instance and SYS hold the same. -/
theorem Completes.agree {i : Instr} {s t s' t' : State} (hunit : i.unit ≠ .sys) (h : SameInside i s.block s'.block)
    (hwindow : s'.window = s.window) (hshape : s'.shape = s.shape) (hc : Completes i s t) (hc' : Completes i s' t') :
    t'.resp = t.resp ∧ SameInside i t.block t'.block := by
  cases i
  case sysStatus | sysSetfs => exact absurd rfl hunit
  case edgeInit | edgeRising =>
    obtain ⟨k, hk, rfl⟩ := hc
    obtain ⟨k', hk', rfl⟩ := hc'
    obtain rfl : k = k' := Fin.ext (hk.symm.trans hk')
    simp only [State.answer, h.edge k rfl hk]
    exact ⟨trivial, h.setEdge _ hk⟩
  case edgeDebounce =>
    obtain ⟨k, rate, hk, hrate, rfl⟩ := hc
    obtain ⟨k', rate', hk', hrate', rfl⟩ := hc'
    obtain rfl : k = k' := Fin.ext (hk.symm.trans hk')
    rw [h.edge k rfl hk] at hrate'
    obtain rfl := Option.some.inj (hrate.symm.trans hrate')
    simp only [State.answer, h.edge k rfl hk, hwindow]
    exact ⟨trivial, h.setEdge _ hk⟩
  case envSetattack | envSetdecay | envSetmin | envSetmax | envTrigger =>
    obtain ⟨j, hj, rfl⟩ := hc
    obtain ⟨j', hj', rfl⟩ := hc'
    obtain rfl : j = j' := Fin.ext (hj.symm.trans hj')
    simp only [State.answer, h.env j rfl hj]
    exact ⟨trivial, h.setEnv _ hj⟩
  case envProcess =>
    obtain ⟨j, fs, attack, decay, lo, hi, hj, hfs, hattack, hdecay, hlo, hhi, rfl⟩ := hc
    obtain ⟨j', fs', attack', decay', lo', hi', hj', hfs', hattack', hdecay', hlo', hhi', rfl⟩ := hc'
    obtain rfl : j = j' := Fin.ext (hj.symm.trans hj')
    simp only [h.sys, h.env j rfl hj, hfs, hattack, hdecay, hlo, hhi, Option.some.injEq] at hfs' hattack' hdecay' hlo' hhi'
    subst hfs' hattack' hdecay' hlo' hhi'
    simp only [State.answer, h.env j rfl hj]
    exact ⟨trivial, h.setEnv _ hj⟩
  case oscSetwave | oscSetfreq | oscSetamp =>
    subst hc hc'
    simp only [State.answer, h.osc rfl]
    exact ⟨trivial, h.setOsc _⟩
  case oscProcess =>
    obtain ⟨fs, freq, amp, w, hfs, hwave, hfreq, hamp, rfl⟩ := hc
    obtain ⟨fs', freq', amp', w', hfs', hwave', hfreq', hamp', rfl⟩ := hc'
    simp only [h.sys, h.osc rfl, hfs, hwave, hfreq, hamp, Option.some.injEq] at hfs' hwave' hfreq' hamp'
    subst hfs' hwave' hfreq' hamp'
    simp only [State.answer, h.osc rfl, hshape]
    exact ⟨trivial, h.setOsc _⟩
  case noiseSeed | noiseProcess =>
    subst hc hc'
    simp only [State.answer, h.noise rfl]
    exact ⟨trivial, h.setNoise _⟩
  case mixSetmode =>
    subst hc hc'
    exact ⟨rfl, h.setMix _⟩
  case mixProcess =>
    subst hc hc'
    simp only [State.answer, h.mix rfl]
    exact ⟨trivial, h⟩

/-- An operation outside SYS that ends without a fault has completed, on a block without one. -/
theorem completes_of_safe {i : Instr} {s t : State} (hunit : i.unit ≠ .sys) (h : exec i s = .next t) (ht : Safe t) :
    Safe s ∧ i.inst.toNat < i.unit.count ∧ ¬ Unmet i s.block ∧ Completes i s t := by
  rcases exec_inversion h with ⟨hf, -, rfl⟩ | ⟨-, rfl, -⟩ | ⟨-, cause, rfl⟩ | hdone
  · exact absurd (Option.isSome_iff_ne_none.mp hf) (not_not.mpr ht)
  · exact absurd rfl hunit
  · cases ht
  · exact hdone

/-- An operation that completes from `s` completes from every state with the same in its instance and SYS. -/
theorem exec_agree {i : Instr} {s t s' : State} (hunit : i.unit ≠ .sys) (h : exec i s = .next t) (ht : Safe t)
    (hsame : SameInside i s.block s'.block) (hwindow : s'.window = s.window) (hshape : s'.shape = s.shape) :
    ∃ t', exec i s' = .next t' ∧ t'.resp = t.resp ∧ SameInside i t.block t'.block := by
  obtain ⟨hs, hinst, hmet, hc⟩ := completes_of_safe hunit h ht
  have hs' : Safe s' := (congrArg SysRegs.fault hsame.sys).trans hs
  rcases exec_performs hs' hinst with ⟨_, _, -, rfl, -⟩ | ⟨hunmet, -⟩ | ⟨-, -, t', ht', hc'⟩
  · exact absurd rfl hunit
  · exact absurd (hsame.unmet hunmet) hmet
  · exact ⟨t', ht', hc.agree hunit hsame hwindow hshape hc'⟩

/-! ### Different instances -/

/-- An operation outside SYS that ends without a fault leaves SYS as it was. -/
theorem exec_sys_eq {i : Instr} {s t : State} (hunit : i.unit ≠ .sys) (h : exec i s = .next t) (ht : Safe t) :
    t.block.sys = s.block.sys := by
  have hfs := (exec_sameOutside h).fs hunit
  have hfault : t.block.sys.fault = s.block.sys.fault := ht.trans (completes_of_safe hunit h ht).1.symm
  change SysRegs.mk t.block.sys.fs t.block.sys.fault = s.block.sys
  rw [hfs, hfault]

/-- `i` and `k` name existing instances, and not the same instance of the same unit. -/
structure Apart (i k : Instr) : Prop where
  left : i.inst.toNat < i.unit.count
  right : k.inst.toNat < k.unit.count
  ne : i.unit ≠ k.unit ∨ i.inst ≠ k.inst

section
variable {i k : Instr} (h : Apart i k)
include h

theorem Apart.symm : Apart k i :=
  ⟨h.right, h.left, h.ne.imp Ne.symm Ne.symm⟩

theorem Apart.inst_ne {u : UnitKind} {n : Nat} (hi : i.unit = u ∧ i.inst.toNat = n) : ¬ (k.unit = u ∧ k.inst.toNat = n) := by
  rintro ⟨hu, hn⟩
  exact h.ne.elim (· (hi.1.trans hu.symm)) (· (BitVec.eq_of_toNat_eq (hi.2.trans hn.symm)))

/-- A unit with one instance has no second for another operation. -/
theorem Apart.unit_ne {u : UnitKind} (hu : u.count = 1) (hi : i.unit = u) : k.unit ≠ u := by
  intro hk
  have hleft := h.left
  have hright := h.right
  rw [hi, hu] at hleft
  rw [hk, hu] at hright
  exact h.inst_ne ⟨hi, Nat.lt_one_iff.mp hleft⟩ ⟨hk, Nat.lt_one_iff.mp hright⟩

/-- What `k` leaves alone is what `i` reads. -/
theorem Apart.inside {b b' : Block} (hk : SameOutside k b b') (hsys : b'.sys = b.sys) : SameInside i b b' where
  sys := hsys
  edge n hu hn := hk.edge n (not_and_or.mp (h.inst_ne ⟨hu, hn⟩))
  env n hu hn := hk.env n (not_and_or.mp (h.inst_ne ⟨hu, hn⟩))
  osc hu := hk.osc (h.unit_ne rfl hu)
  noise hu := hk.noise (h.unit_ne rfl hu)
  mix hu := hk.mix (h.unit_ne rfl hu)

end

/-- One register that two operations may write, `i` when `I` and `k` when `K`, never both: `s` to `t` to `u` by `i` then `k`, and
`s` to `t'` to `u'` by `k` then `i`. -/
theorem register_diamond {α : Type} {I K : Prop} {s t u t' u' : α} (hapart : I → ¬ K) (hst : ¬ I → t = s) (htu : ¬ K → u = t)
    (hst' : ¬ K → t' = s) (htu' : ¬ I → u' = t') (hi : I → u' = t) (hk : K → t' = u) : u' = u := by
  by_cases hI : I
  · rw [hi hI, htu (hapart hI)]
  · by_cases hK : K
    · rw [htu' hI, hk hK]
    · rw [htu' hI, hst' hK, htu hK, hst hI]

/-- The registers after two operations on different instances do not depend on their order. -/
theorem block_diamond {i k : Instr} {s t u t' u' : Block} (hik : Apart i k) (hst : SameOutside i s t) (htu : SameOutside k t u)
    (hst' : SameOutside k s t') (htu' : SameOutside i t' u') (hi : SameInside i t u') (hk : SameInside k u t')
    (hsys : u'.sys = u.sys) : u' = u := by
  have hedge : u'.edge = u.edge := Vector.ext fun n hn =>
    register_diamond hik.inst_ne (hst.edge ⟨n, hn⟩ <| not_and_or.mp ·) (htu.edge ⟨n, hn⟩ <| not_and_or.mp ·)
      (hst'.edge ⟨n, hn⟩ <| not_and_or.mp ·) (htu'.edge ⟨n, hn⟩ <| not_and_or.mp ·)
      (fun h => hi.edge ⟨n, hn⟩ h.1 h.2) (fun h => hk.edge ⟨n, hn⟩ h.1 h.2)
  have henv : u'.env = u.env := Vector.ext fun n hn =>
    register_diamond hik.inst_ne (hst.env ⟨n, hn⟩ <| not_and_or.mp ·) (htu.env ⟨n, hn⟩ <| not_and_or.mp ·)
      (hst'.env ⟨n, hn⟩ <| not_and_or.mp ·) (htu'.env ⟨n, hn⟩ <| not_and_or.mp ·)
      (fun h => hi.env ⟨n, hn⟩ h.1 h.2) (fun h => hk.env ⟨n, hn⟩ h.1 h.2)
  have hosc : u'.osc = u.osc := register_diamond (hik.unit_ne rfl) hst.osc htu.osc hst'.osc htu'.osc hi.osc hk.osc
  have hnoise : u'.noise = u.noise :=
    register_diamond (hik.unit_ne rfl) hst.noise htu.noise hst'.noise htu'.noise hi.noise hk.noise
  have hmix : u'.mix = u.mix := register_diamond (hik.unit_ne rfl) hst.mix htu.mix hst'.mix htu'.mix hi.mix hk.mix
  change Block.mk u'.sys u'.edge u'.env u'.osc u'.noise u'.mix = u
  rw [hsys, hedge, henv, hosc, hnoise, hmix]

/-- Settles O55: each operation finds in the other order what it reads (`Apart.inside`), so it does the same there
(`exec_agree`), and register by register the order does not matter (`block_diamond`). -/
theorem operationsOnDifferentInstancesCommute : Obligations.OperationsOnDifferentInstancesCommute := by
  intro s t u i k hiunit hkunit hne hi ht hk hu
  obtain ⟨-, hinst, -⟩ := completes_of_safe hiunit hi ht
  have hik : Apart i k := ⟨hinst, (completes_of_safe hkunit hk hu).2.1, hne⟩
  have hst := exec_sameOutside hi
  have htu := exec_sameOutside hk
  have hsyst := exec_sys_eq hiunit hi ht
  have hsysu := exec_sys_eq hkunit hk hu
  obtain ⟨-, -, -, hwindow, hshape⟩ := exec_outside hi
  obtain ⟨t', hk', hkresp, hkin⟩ := exec_agree hkunit hk hu
    (SameInside.symm (hik.symm.inside hst hsyst)) hwindow.symm hshape.symm
  have hst' := exec_sameOutside hk'
  have hsyst' : t'.block.sys = s.block.sys := hkin.sys.trans (hsysu.trans hsyst)
  obtain ⟨-, -, -, hwindow', hshape'⟩ := exec_outside hk'
  obtain ⟨u', hi', hiresp, hiin⟩ := exec_agree hiunit hi ht (hik.inside hst' hsyst') hwindow' hshape'
  exact ⟨t', u', hk', hi', block_diamond hik hst htu hst' (exec_sameOutside hi') hiin hkin (hiin.sys.trans hsysu.symm),
    hkresp, hiresp⟩

end Sys2Proof.Machine
end

section
/-! RUNBLOCK (45_system_and_sequencer.md R192 to R195): where it stops at a fault; each kind of action as a step; and from the steps
the head of the expansion, one sample iteration and the whole sample loop. -/

namespace Sys2Proof.Machine

/-! ### A line that faults -/

/-- A raw command that leaves a record where there was none has raised it with its own word and done nothing else
(60_exceptions.md R217). -/
theorem execute_raises {c : Command} {s t : State} (hs : Safe s) (h : execute c s = .next t) (ht : t.block.sys.fault.isSome) :
    ∃ cause, t = s.raise cause c.cw := by
  have hnotHalted : ¬ s.block.sys.fault.isSome := by simp [hs]
  rcases execute_inversion h with ⟨i, hd, h⟩ | ⟨hf, -⟩ | ⟨-, -, ht⟩
  · have hword : i.word = c.cw := congrArg Command.cw (encodeOfDecodeIsTheCommand c i hd)
    rcases exec_inversion h with ⟨hf, -⟩ | ⟨hf, -⟩ | ⟨-, hraise⟩ | ⟨-, -, -, hc⟩
    · exact absurd hf hnotHalted
    · exact absurd hf hnotHalted
    · exact hword ▸ hraise
    · exact absurd (hc.answers.1 ▸ ht) hnotHalted
  · exact absurd hf hnotHalted
  · exact ⟨_, ht⟩

/-- Settles O60: a skipped line leaves no record, so the command was executed and raised (`execute_raises`), and the end of the line
drops the rest of a RUNBLOCK of a halted block. -/
theorem runBlockStopsAtAFault : Obligations.RunBlockStopsAtAFault := by
  intro s t l rest hresets hs hb hstep ht
  have hnotHalted : ¬ s.block.sys.fault.isSome := by simp [hs]
  rw [step_of_block (by simp [hresets]) hb, perform] at hstep
  rcases issueLine_inversion hstep with ⟨-, rfl⟩ | ⟨-, ops, u, -, hexec, rfl⟩ | ⟨hf, -⟩
  · exact absurd ht hnotHalted
  · obtain ⟨cause, rfl⟩ := execute_raises (by exact hs) hexec ht
    exact ⟨by simp, rfl, rfl, rfl, rfl, ⟨cause, l.cw⟩, rfl, rfl⟩
  · exact absurd hf hnotHalted

/-! ### A RUNBLOCK in progress -/

/-- `s` in the middle of a RUNBLOCK, no reset to come: the registers are `b`, the port holds `r`, the names are `ns`, and `acts` is
what is left of the expansion. OUT, the strobes and the program are those of `s`. -/
def State.during (s : State) (b : Block) (r : Option Response) (ns : Names) (acts : List Action) : State :=
  { s with block := b, resp := r, resets := [], issuer := { s.issuer with names := ns, block := acts } }

@[simp] theorem State.during_block (s : State) (b : Block) (r : Option Response) (ns : Names) (acts : List Action) :
    (s.during b r ns acts).block = b := rfl

theorem State.during_self {s : State} (h : s.resets = []) : s.during s.block s.resp s.issuer.names s.issuer.block = s := by
  rw [during, ← h]

/-- An executed line ends after its command. -/
theorem issueLine_executes {l : Line} {ops : List Value} {s t : State} (hcond : condition s.issuer.names l.cond = true)
    (hops : resolve s.issuer.names l.operands = some ops) (hexec : execute ⟨l.cw, ops⟩ s = .next t) :
    issueLine l s = .next (t.endLine l) := by
  simp only [issueLine, hcond, if_true, hops, hexec, andThen_next]

/-- A bound name in front of the operands puts its value on the bus. -/
theorem resolve_name_cons {ns : Names} {name : Name} {v : Value} {operands : List Operand} {vs : List Value}
    (hname : ns.lookup name = some v) (hrest : resolve ns operands = some vs) :
    resolve ns (.name name :: operands) = some (v :: vs) := by
  simp only [resolve, resolveOne, hname, hrest]

/-- A value in front of the operands is put on the bus as it is written. -/
theorem resolve_lit_cons {ns : Names} {v : Value} {operands : List Operand} {vs : List Value}
    (hrest : resolve ns operands = some vs) : resolve ns (.lit v :: operands) = some (v :: vs) := by
  simp only [resolve, resolveOne, hrest]

/-- The envelope after `IF rose: ENV.TRIGGER`. -/
def EnvRegs.triggeredIf (rose : Bool) (e : EnvRegs) : EnvRegs :=
  if rose then { e with stage := .attack, elapsed := 0 } else e

section
variable {s : State} {b b' : Block} {r : Option Response} {ns : Names} {acts : List Action}

/-- A step in the middle of a RUNBLOCK performs the next action. -/
theorem step_during (a : Action) : step (s.during b r ns (a :: acts)) = perform a (s.during b r ns acts) :=
  rfl

/-- A line of the expansion whose operands the names supply: the operation runs, its response is bound, and without a fault the rest
of the expansion is next. -/
theorem step_line {i j : Instr} {operands : List Operand} {ops : List Value} {bind : List Name} {cond : Option Name}
    {answer : Response} (hcond : condition ns cond = true) (hops : resolve ns operands = some ops)
    (hdecode : i.withOperands ops = .ok j)
    (hexec : exec j (s.during b r ns acts) = .next (s.during b' (some answer) ns acts)) (hsafe : b'.sys.fault = none) :
    step (s.during b r ns (lineOf i operands bind cond :: acts)) =
      .next (s.during b' (some answer) (bindAll bind (responseComponents answer) ns) acts) := by
  have hissue := issueLine_executes (s := s.during b r ns acts) (l := ⟨i.word, operands, bind, cond⟩) hcond hops
    ((execute_of_decode ((decode_word i ops).trans hdecode) _).trans hexec)
  have hrunning : b'.halted = false := (halted_eq_false_iff b').mpr hsafe
  rw [step_during, lineOf, perform, hissue, State.endLine]
  simp only [State.during, hrunning, Bool.false_eq_true, if_false]

/-- A line of the expansion whose `IF` bit is 0 is skipped. -/
theorem step_line_skipped {i : Instr} {operands : List Operand} {bind : List Name} {cond : Option Name}
    (hcond : condition ns cond = false) :
    step (s.during b r ns (lineOf i operands bind cond :: acts)) = .next (s.during b r ns acts) := by
  rw [step_during, lineOf, perform, issueLine]
  exact if_neg (Bool.eq_false_iff.mp hcond)

theorem step_strobe (v : AnalogVoice) {name : Name} {x : Bool} (hname : ns.lookup name = some (.bit x)) :
    step (s.during b r ns (.strobe v name :: acts)) = .next ((s.setStrobe v x).during b r ns acts) := by
  rw [step_during, perform]
  simp only [State.during, hname]
  cases v <;> rfl

theorem step_memWrite {slot : Nat} {name : Name} {q : NUM} {m : Memory} (hname : ns.lookup name = some (.num q))
    (hwrite : s.out.write slot q = some m) :
    step (s.during b r ns (.memWrite slot name :: acts)) = .next (State.during { s with out := m } b r ns acts) := by
  rw [step_during, perform]
  simp only [State.during, hname, hwrite]

/-! ### The lines of the head -/

section
variable (hsafe : b.sys.fault = none)
include hsafe

theorem step_edgeDebounce {inst : Nibble} (h : inst.toNat < nEdge) {raw : Bool} {rate : NUM} {e : EdgeRegs}
    (hrate : b.edge[inst.toNat].rate = some rate)
    (he : b.edge[inst.toNat].debounce raw (threshold s.window rate) = e) :
    step (s.during b r ns (lineOf (.edgeDebounce inst raw) :: acts)) =
      .next (s.during (b.setEdge ⟨inst.toNat, h⟩ e) (some .empty) ns acts) :=
  step_line rfl rfl rfl (he ▸ exec_edgeDebounce (s := s.during b r ns acts) hsafe h raw hrate) hsafe

theorem step_edgeRising {inst : Nibble} (h : inst.toNat < nEdge) (name : Name) :
    step (s.during b r ns (lineOf (.edgeRising inst) [] [name] :: acts)) =
      .next (s.during (b.setEdge ⟨inst.toNat, h⟩ { b.edge[inst.toNat] with rise := false })
        (some (.bit b.edge[inst.toNat].rise)) (bindName name (.bit b.edge[inst.toNat].rise) ns) acts) :=
  step_line rfl rfl rfl (exec_edgeRising (s := s.during b r ns acts) hsafe h) hsafe

theorem step_envTrigger_if {inst : Nibble} (h : inst.toNat < nEnv) {name : Name} {rose : Bool}
    (hname : ns.lookup name = some (.bit rose)) :
    step (s.during b r ns (lineOf (.envTrigger inst) [] [] (some name) :: acts)) =
      .next (s.during (b.setEnv ⟨inst.toNat, h⟩ (b.env[inst.toNat].triggeredIf rose)) (if rose then some .empty else r) ns
        acts) := by
  cases rose with
  | true =>
    exact step_line (by simp [condition, hname]) rfl rfl (exec_envTrigger (s := s.during b r ns acts) hsafe h) hsafe
  | false =>
    rw [step_line_skipped (by simp [condition, hname])]
    simp only [EnvRegs.triggeredIf, Bool.false_eq_true, if_false, Block.setEnv_self]

/-! ### The lines of a sample iteration -/

theorem step_envProcess {inst : Nibble} (h : inst.toNat < nEnv) (name : Name) {fs attack decay lo hi : NUM}
    (hfs : b.sys.fs = some fs) (hattack : b.env[inst.toNat].attack = some attack)
    (hdecay : b.env[inst.toNat].decay = some decay) (hlo : b.env[inst.toNat].min = some lo)
    (hhi : b.env[inst.toNat].max = some hi) {p : EnvRegs × NUM}
    (hp : b.env[inst.toNat].process (attack * fs) (decay * fs) lo hi = p) :
    step (s.during b r ns (lineOf (.envProcess inst) [] [name] :: acts)) =
      .next (s.during (b.setEnv ⟨inst.toNat, h⟩ p.1) (some (.num p.2)) (bindName name (.num p.2) ns) acts) :=
  step_line rfl rfl rfl
    (exec_envProcess (s := s.during b r ns acts) (h := h) ⟨hsafe, hfs, hattack, hdecay, hlo, hhi⟩ hp) hsafe

theorem step_oscSetfreq {name : Name} {f : NUM} (hname : ns.lookup name = some (.num f)) :
    step (s.during b r ns (lineOf (.oscSetfreq 0 0) [.name name] :: acts)) =
      .next (s.during { b with osc := { b.osc with freq := some f } } (some .empty) ns acts) :=
  step_line rfl (resolve_name_cons hname rfl) rfl (exec_oscSetfreq (s := s.during b r ns acts) hsafe f) hsafe

theorem step_oscSetamp {name : Name} {a : NUM} (hname : ns.lookup name = some (.num a)) :
    step (s.during b r ns (lineOf (.oscSetamp 0 0) [.name name] :: acts)) =
      .next (s.during { b with osc := { b.osc with amp := some a } } (some .empty) ns acts) :=
  step_line rfl (resolve_name_cons hname rfl) rfl (exec_oscSetamp (s := s.during b r ns acts) hsafe a) hsafe

theorem step_oscProcess (name : Name) {fs freq amp phase q : NUM} {w : Waveform} (hfs : b.sys.fs = some fs)
    (hwave : b.osc.wave = some w) (hfreq : b.osc.freq = some freq) (hamp : b.osc.amp = some amp)
    (hphase : frac (b.osc.phase + freq / fs) = phase) (hq : amp * waveOf s.shape w phase (freq / fs) = q) :
    step (s.during b r ns (lineOf (.oscProcess 0) [] [name] :: acts)) =
      .next (s.during { b with osc := { b.osc with phase := phase } } (some (.num q)) (bindName name (.num q) ns) acts) := by
  subst hphase hq
  exact step_line rfl rfl rfl (exec_oscProcess (s := s.during b r ns acts) ⟨hsafe, hfs, hwave, hfreq, hamp⟩) hsafe

theorem step_noiseProcess (name : Name) {l : Word} (hl : lfsrShift Config.lfsrSteps b.noise.lfsr = l) :
    step (s.during b r ns (lineOf (.noiseProcess 0) [] [name] :: acts)) =
      .next (s.during { b with noise := ⟨l⟩ } (some (.num (noiseSample l))) (bindName name (.num (noiseSample l)) ns) acts) := by
  subst hl
  exact step_line rfl rfl rfl (exec_noiseProcess (s := s.during b r ns acts) hsafe) hsafe

theorem step_mixProcess {bass snare click noise env : NUM} (hclick : ns.lookup .c = some (.num click))
    (hnoise : ns.lookup .z = some (.num noise)) (henv : ns.lookup .e = some (.num env)) {out : NUM}
    (hout : mixOut b.mix.mode click bass snare noise env = out) :
    ∃ r' ns', step (s.during b r ns (lineOf (.mixProcess 0 0 0 0 0 0)
        [.name .c, .lit (.num bass), .lit (.num snare), .name .z, .name .e] [.left, .right, .n] :: acts)) =
      .next (s.during b r' ns' acts) ∧ ns'.lookup .left = some (.num out) ∧ ns'.lookup .right = some (.num out) := by
  subst hout
  refine ⟨_, _, step_line rfl (resolve_name_cons hclick (resolve_lit_cons (resolve_lit_cons
    (resolve_name_cons hnoise (resolve_name_cons henv rfl))))) rfl
    (exec_mixProcess (s := s.during b r ns acts) hsafe click bass snare noise env) hsafe, ?_, ?_⟩
  · simp [bindAll, responseComponents, lookup_bindName]
  · simp [bindAll, responseComponents, lookup_bindName]

end

end

/-! ### The head of the expansion -/

section
variable {s : State} {sys : SysRegs} {env : Vector EnvRegs nEnv} {osc : OscRegs} {noise : NoiseRegs} {mix : MixRegs}
  (r : Option Response) (ns : Names) (acts : List Action) (pins : Vector Bool nEdge) {d e : Fin 4 → EdgeRegs}
  (hsafe : sys.fault = none)
include hsafe

/-- The first four lines: `e` are the detectors after the debounces. -/
theorem run_debounces {rate : Fin 4 → NUM} (hrate : ∀ i, (d i).rate = some (rate i))
    (he : ∀ i, (d i).debounce pins[i] (threshold s.window (rate i)) = e i) :
    Host.Core.run Sys2Proof.core 4
      (s.during ⟨sys, #v[d 0, d 1, d 2, d 3], env, osc, noise, mix⟩ r ns (runBlockHead pins ++ acts)) =
    .next (s.during ⟨sys, #v[e 0, e 1, e 2, e 3], env, osc, noise, mix⟩ (some .empty) ns
      ((runBlockHead pins).drop 4 ++ acts)) :=
  (run_succ (step_edgeDebounce (inst := 0) hsafe (by decide) (hrate 0) (he 0))).trans <|
  (run_succ (step_edgeDebounce (inst := 1) hsafe (by decide) (hrate 1) (he 1))).trans <|
  (run_succ (step_edgeDebounce (inst := 2) hsafe (by decide) (hrate 2) (he 2))).trans <|
  run_succ (step_edgeDebounce (inst := 3) hsafe (by decide) (hrate 3) (he 3))

/-- The next four lines: each RISE is bound to its name and cleared. -/
theorem run_queries : ∃ r' ns', (∀ i : Fin 4, List.lookup (.r i) ns' = some (.bit (e i).rise)) ∧
    Host.Core.run Sys2Proof.core 4
      (s.during ⟨sys, #v[e 0, e 1, e 2, e 3], env, osc, noise, mix⟩ r ns ((runBlockHead pins).drop 4 ++ acts)) =
    .next (s.during ⟨sys, #v[{ e 0 with rise := false }, { e 1 with rise := false }, { e 2 with rise := false },
      { e 3 with rise := false }], env, osc, noise, mix⟩ r' ns' ((runBlockHead pins).drop 8 ++ acts)) := by
  refine ⟨_, _, ?_,
    (run_succ (step_edgeRising (inst := 0) hsafe (by decide) (.r 0))).trans <|
    (run_succ (step_edgeRising (inst := 1) hsafe (by decide) (.r 1))).trans <|
    (run_succ (step_edgeRising (inst := 2) hsafe (by decide) (.r 2))).trans <|
    run_succ (step_edgeRising (inst := 3) hsafe (by decide) (.r 3))⟩
  intro i
  fin_cases i <;> simp [lookup_bindName]

end

/-- The last five actions of the head: the triggers and the two strobes, by the bits that were bound. -/
theorem run_triggers {s : State} {sys : SysRegs} {edge : Vector EdgeRegs nEdge} {v : Fin 3 → EnvRegs} {osc : OscRegs}
    {noise : NoiseRegs} {mix : MixRegs} (r : Option Response) {ns : Names} (acts : List Action) (pins : Vector Bool nEdge)
    {rose : Fin 4 → Bool} (hsafe : sys.fault = none) (hrose : ∀ i : Fin 4, ns.lookup (.r i) = some (.bit (rose i))) :
    ∃ r', Host.Core.run Sys2Proof.core 5
      (s.during ⟨sys, edge, #v[v 0, v 1, v 2], osc, noise, mix⟩ r ns ((runBlockHead pins).drop 8 ++ acts)) =
    .next (State.during ((s.setStrobe .bass (rose 1)).setStrobe .snare (rose 2))
      ⟨sys, edge, #v[(v 0).triggeredIf (rose 0), (v 1).triggeredIf (rose 0), (v 2).triggeredIf (rose 3)], osc, noise, mix⟩
      r' ns acts) :=
  ⟨_, (run_succ (step_envTrigger_if (inst := 0) hsafe (by decide) (hrose 0))).trans <|
    (run_succ (step_envTrigger_if (inst := 1) hsafe (by decide) (hrose 0))).trans <|
    (run_succ (step_strobe .bass (hrose 1))).trans <|
    (run_succ (step_strobe .snare (hrose 2))).trans <|
    run_succ (step_envTrigger_if (inst := 2) hsafe (by decide) (hrose 3))⟩

/-- A block with its envelopes listed. -/
theorem Block.eq_of_env (b : Block) : b = { b with env := #v[b.env[0], b.env[1], b.env[2]] } := by
  have henv : b.env = #v[b.env[0], b.env[1], b.env[2]] := Vector.ext fun j hj => by interval_cases j <;> rfl
  rw [← henv]

/-- A block with its detectors and envelopes listed. -/
theorem Block.eq_of_instances (b : Block) : b = { b with
    edge := #v[b.edge[0], b.edge[1], b.edge[2], b.edge[3]], env := #v[b.env[0], b.env[1], b.env[2]] } := by
  have hedge : b.edge = #v[b.edge[0], b.edge[1], b.edge[2], b.edge[3]] := Vector.ext fun i hi => by interval_cases i <;> rfl
  rw [← hedge]
  exact b.eq_of_env

/-- The registers after the head: `e` are the detectors as the debounces left them. -/
def Block.afterHead (b : Block) (e : Fin 4 → EdgeRegs) : Block :=
  { b with
    edge := #v[{ e 0 with rise := false }, { e 1 with rise := false }, { e 2 with rise := false }, { e 3 with rise := false }]
    env := #v[b.env[0].triggeredIf (e 0).rise, b.env[1].triggeredIf (e 0).rise, b.env[2].triggeredIf (e 3).rise] }

theorem Block.afterHead_edge (b : Block) (e : Fin 4 → EdgeRegs) (i : Fin 4) :
    (b.afterHead e).edge[i] = { e i with rise := false } := by
  fin_cases i <;> rfl

/-- The head of the expansion, from a block with every RATE written. -/
theorem run_head {s : State} {b : Block} (r : Option Response) (ns : Names) (acts : List Action) {pins : Vector Bool nEdge}
    {e : Fin 4 → EdgeRegs} {rate : Fin 4 → NUM} (hsafe : b.sys.fault = none)
    (hrate : ∀ i : Fin 4, b.edge[i].rate = some (rate i))
    (he : ∀ i : Fin 4, b.edge[i].debounce pins[i] (threshold s.window (rate i)) = e i) :
    ∃ r' ns', Host.Core.run Sys2Proof.core 13 (s.during b r ns (runBlockHead pins ++ acts)) = .next
      (State.during ((s.setStrobe .bass (e 1).rise).setStrobe .snare (e 2).rise)
        (b.afterHead e) r' ns' acts) := by
  obtain ⟨_, ns', hrose, hqueries⟩ := run_queries (s := s) (env := #v[b.env[0], b.env[1], b.env[2]]) (osc := b.osc)
    (noise := b.noise) (mix := b.mix) (some .empty) ns acts pins (e := e) hsafe
  obtain ⟨r', htriggers⟩ := run_triggers (v := fun j => b.env[j]) _ acts pins hsafe hrose
  refine ⟨r', ns', ?_⟩
  conv_lhs => rw [b.eq_of_instances]
  exact (run_add (run_debounces r ns acts pins hsafe hrate he)).trans <| (run_add hqueries).trans htriggers

/-! ### One sample iteration -/

/-- The first three lines of an iteration: each envelope is processed and its value bound. -/
theorem run_envelopes {s : State} {sys : SysRegs} {edge : Vector EdgeRegs nEdge} {v : Fin 3 → EnvRegs} {osc : OscRegs}
    {noise : NoiseRegs} {mix : MixRegs} (r : Option Response) (ns : Names) (acts : List Action) (k : Nat) (bass snare : NUM)
    {fs : NUM} {attack decay lo hi : Fin 3 → NUM} {p : Fin 3 → EnvRegs × NUM} (hsafe : sys.fault = none)
    (hfs : sys.fs = some fs)
    (hv : ∀ j, (v j).attack = some (attack j) ∧ (v j).decay = some (decay j) ∧ (v j).min = some (lo j) ∧ (v j).max = some (hi j))
    (hp : ∀ j, (v j).process (attack j * fs) (decay j * fs) (lo j) (hi j) = p j) :
    ∃ r' ns', (List.lookup .f ns' = some (.num (p 0).2) ∧ List.lookup .a ns' = some (.num (p 1).2) ∧
        List.lookup .e ns' = some (.num (p 2).2)) ∧
      Host.Core.run Sys2Proof.core 3
        (s.during ⟨sys, edge, #v[v 0, v 1, v 2], osc, noise, mix⟩ r ns (sampleLoop k bass snare ++ acts)) =
      .next (s.during ⟨sys, edge, #v[(p 0).1, (p 1).1, (p 2).1], osc, noise, mix⟩ r' ns'
        ((sampleLoop k bass snare).drop 3 ++ acts)) := by
  obtain ⟨ha0, hd0, hl0, hh0⟩ := hv 0
  obtain ⟨ha1, hd1, hl1, hh1⟩ := hv 1
  obtain ⟨ha2, hd2, hl2, hh2⟩ := hv 2
  refine ⟨_, _, ?_,
    (run_succ (step_envProcess (inst := 0) hsafe (by decide) .f hfs ha0 hd0 hl0 hh0 (hp 0))).trans <|
    (run_succ (step_envProcess (inst := 1) hsafe (by decide) .a hfs ha1 hd1 hl1 hh1 (hp 1))).trans <|
    run_succ (step_envProcess (inst := 2) hsafe (by decide) .e hfs ha2 hd2 hl2 hh2 (hp 2))⟩
  simp [lookup_bindName]

/-- The next four lines: FREQ and AMP are written from the bound values, then oscillator and noise are processed. -/
theorem run_voices {s : State} {sys : SysRegs} {edge : Vector EdgeRegs nEdge} {env : Vector EnvRegs nEnv} {wave : Option Waveform}
    {freq amp : Option NUM} {phase : NUM} {lfsr : Word} {mix : MixRegs} (r : Option Response) {ns : Names} (acts : List Action)
    (k : Nat) (bass snare : NUM) {fs f a e phase' click : NUM} {w : Waveform} {lfsr' : Word} (hsafe : sys.fault = none)
    (hfs : sys.fs = some fs) (hwave : wave = some w)
    (hnames : ns.lookup .f = some (.num f) ∧ ns.lookup .a = some (.num a) ∧ ns.lookup .e = some (.num e))
    (hphase : frac (phase + f / fs) = phase') (hclick : a * waveOf s.shape w phase' (f / fs) = click)
    (hlfsr : lfsrShift Config.lfsrSteps lfsr = lfsr') :
    ∃ r' ns', (List.lookup .c ns' = some (.num click) ∧ List.lookup .z ns' = some (.num (noiseSample lfsr')) ∧
        List.lookup .e ns' = some (.num e)) ∧
      Host.Core.run Sys2Proof.core 4 (s.during ⟨sys, edge, env, ⟨wave, freq, amp, phase⟩, ⟨lfsr⟩, mix⟩ r ns
        ((sampleLoop k bass snare).drop 3 ++ acts)) =
      .next (s.during ⟨sys, edge, env, ⟨wave, some f, some a, phase'⟩, ⟨lfsr'⟩, mix⟩ r' ns'
        ((sampleLoop k bass snare).drop 7 ++ acts)) := by
  obtain ⟨hf, ha, he⟩ := hnames
  refine ⟨_, _, ?_,
    (run_succ (step_oscSetfreq hsafe hf)).trans <|
    (run_succ (step_oscSetamp hsafe ha)).trans <|
    (run_succ (step_oscProcess hsafe .c hfs hwave rfl rfl hphase hclick)).trans <|
    run_succ (step_noiseProcess hsafe .z hlfsr)⟩
  simp [lookup_bindName, he]

/-- The last three actions: the mixed sample goes to both slots of the frame. -/
theorem run_frame {s : State} {b : Block} (r : Option Response) {ns : Names} (acts : List Action) (k : Nat) (bass snare : NUM)
    {click noise env out : NUM} {m m' : Memory} (hsafe : b.sys.fault = none) (hclick : ns.lookup .c = some (.num click))
    (hnoise : ns.lookup .z = some (.num noise)) (henv : ns.lookup .e = some (.num env))
    (hout : mixOut b.mix.mode click bass snare noise env = out) (hleft : s.out.write (2 * k) out = some m)
    (hright : m.write (2 * k + 1) out = some m') :
    ∃ r' ns', Host.Core.run Sys2Proof.core 3 (s.during b r ns ((sampleLoop k bass snare).drop 7 ++ acts)) =
      .next (State.during { s with out := m' } b r' ns' acts) := by
  obtain ⟨r', ns', hmix, hl, hr⟩ := step_mixProcess (s := s) (r := r) (acts := _) hsafe hclick hnoise henv hout
  exact ⟨r', ns', (run_succ hmix).trans <| (run_succ (step_memWrite hl hleft)).trans <| run_succ (step_memWrite hr hright)⟩

/-- The block has no fault, and the configuration registers that a sample iteration reads hold these values. -/
structure SampleReady (b : Block) (fs : NUM) (w : Waveform) (attack decay lo hi : Fin 3 → NUM) : Prop where
  safe : b.sys.fault = none
  fs : b.sys.fs = some fs
  wave : b.osc.wave = some w
  env : ∀ j : Fin 3, b.env[j].attack = some (attack j) ∧ b.env[j].decay = some (decay j) ∧ b.env[j].min = some (lo j) ∧
    b.env[j].max = some (hi j)

/-- One sample iteration: each envelope's registers and value are `p j`, the mixed sample is `out`. -/
theorem run_sampleLoop {s : State} {b : Block} (r : Option Response) (ns : Names) (acts : List Action) (k : Nat)
    (bass snare : NUM) {fs : NUM} {w : Waveform} {attack decay lo hi : Fin 3 → NUM} (hb : SampleReady b fs w attack decay lo hi)
    {p : Fin 3 → EnvRegs × NUM} {phase click out : NUM} {l : Word} {m m' : Memory}
    (hp : ∀ j : Fin 3, b.env[j].process (attack j * fs) (decay j * fs) (lo j) (hi j) = p j)
    (hphase : frac (b.osc.phase + (p 0).2 / fs) = phase) (hclick : (p 1).2 * waveOf s.shape w phase ((p 0).2 / fs) = click)
    (hl : lfsrShift Config.lfsrSteps b.noise.lfsr = l)
    (hout : mixOut b.mix.mode click bass snare (noiseSample l) (p 2).2 = out)
    (hleft : s.out.write (2 * k) out = some m) (hright : m.write (2 * k + 1) out = some m') :
    ∃ r' ns', Host.Core.run Sys2Proof.core 10 (s.during b r ns (sampleLoop k bass snare ++ acts)) =
      .next (State.during { s with out := m' }
        { b with
          env := #v[(p 0).1, (p 1).1, (p 2).1]
          osc := ⟨some w, some (p 0).2, some (p 1).2, phase⟩
          noise := ⟨l⟩ } r' ns' acts) := by
  obtain ⟨r₁, _, hnames, henvelopes⟩ := run_envelopes (s := s) (edge := b.edge) (v := fun j => b.env[j]) (osc := b.osc)
    (noise := b.noise) (mix := b.mix) r ns acts k bass snare hb.safe hb.fs hb.env hp
  obtain ⟨r₂, _, ⟨hc, hz, he⟩, hvoices⟩ := run_voices (s := s) (edge := b.edge) (env := #v[(p 0).1, (p 1).1, (p 2).1])
    (freq := b.osc.freq) (amp := b.osc.amp) (mix := b.mix) r₁ acts k bass snare hb.safe hb.fs hb.wave hnames hphase hclick hl
  obtain ⟨r', ns', hframe⟩ := run_frame (s := s) (b := ⟨b.sys, b.edge, #v[(p 0).1, (p 1).1, (p 2).1],
    ⟨b.osc.wave, some (p 0).2, some (p 1).2, phase⟩, ⟨l⟩, b.mix⟩) r₂ acts k bass snare hb.safe hc hz he hout hleft hright
  refine ⟨r', ns', ?_⟩
  conv_lhs => rw [b.eq_of_env]
  rw [← hb.wave]
  exact (run_add henvelopes).trans <| (run_add hvoices).trans hframe

/-! ### The frame in OUT -/

/-- Both slots of a frame are slots of the buffer: the two writes succeed, and only these slots read differently. -/
theorem Memory.write_frame {m : Memory} (hm : m.wf) {k : Nat} (hk : 2 * k + 1 < m.size) (v : NUM) :
    ∃ left right, m.write (2 * k) v = some left ∧ left.write (2 * k + 1) v = some right ∧ right.size = m.size ∧ right.wf ∧
      ∀ slot, right.read slot = if slot = 2 * k ∨ slot = 2 * k + 1 then some v else m.read slot := by
  have hleft : m.write (2 * k) v = some { m with cells := insertCell (2 * k) v m.cells } := if_pos (by omega)
  have hwf := Memory.write_wf hm hleft
  have hright : Memory.write { m with cells := insertCell (2 * k) v m.cells } (2 * k + 1) v = some _ := if_pos hk
  refine ⟨_, _, hleft, hright, rfl, Memory.write_wf hwf hright, fun slot => ?_⟩
  rw [Memory.read_write hwf hright, Memory.read_write hm hleft]
  by_cases hslot : slot = 2 * k + 1 <;> simp [hslot]

/-- Settles O58: the ten steps of `run_sampleLoop` from `s` itself, the frame by `Memory.write_frame`. -/
theorem sampleLoopWritesOneFrame : Obligations.SampleLoopWritesOneFrame := by
  intro s k bass snare rest fs w attack decay lo hi hs hresets hwf hk hb hfs _ hwave henv env inc phase lfsr out
  obtain ⟨m, m', hleft, hright, hsize, -, hread⟩ := Memory.write_frame hwf hk out
  obtain ⟨r', ns', hrun⟩ := run_sampleLoop s.resp s.issuer.names rest k bass snare ⟨hs, hfs, hwave, henv⟩ (p := env)
    (fun _ => rfl) rfl rfl (lfsrShift_eq_iterate _ _) rfl hleft hright
  rw [← hb, State.during_self hresets] at hrun
  exact ⟨_, hrun, hs, rfl, hsize, rfl, rfl, hread⟩

/-! ### The first fourteen steps -/

/-- The step that begins a RUNBLOCK: the expansion is next, and nothing of the block has changed. -/
theorem step_beginBlock {s : State} {pins : Vector Bool nEdge} {samples : List (NUM × NUM)} {rest : List Item}
    (hresets : s.resets = []) (hb : s.issuer.block = []) (hp : s.issuer.program = .runBlock pins samples :: rest)
    (hne : samples ≠ []) :
    step s = .next ((s.beginBlock pins samples rest).during s.block s.resp s.issuer.names
      (runBlockHead pins ++ sampleLoops 0 samples)) := by
  have hsize : (Item.runBlock pins samples).wellFormed = true := decide_eq_true (List.length_pos_iff.mpr hne)
  rw [step_of_not_due (by simp [hresets])]
  simp only [issuerStep, hb, hp, hsize, if_true, hresets]
  rfl

/-- RUNBLOCK up to its sample loop: `e` are the detectors as the debounces leave them. -/
theorem run_beforeLoops {s : State} {pins : Vector Bool nEdge} {samples : List (NUM × NUM)} {rest : List Item} (hs : Safe s)
    (hconf : Configured s.block) (hresets : s.resets = []) (hb : s.issuer.block = [])
    (hp : s.issuer.program = .runBlock pins samples :: rest) (hne : samples ≠ []) :
    ∃ (e : Fin 4 → EdgeRegs) (r : Option Response) (ns : Names),
      (∀ i : Fin 4, ∃ rate, s.block.edge[i].rate = some rate ∧
        e i = s.block.edge[i].debounce pins[i] (threshold s.window rate)) ∧
      Host.Core.run Sys2Proof.core 14 s = .next (State.during
        (((s.beginBlock pins samples rest).setStrobe .bass (e 1).rise).setStrobe .snare (e 2).rise) (s.block.afterHead e) r ns
        (sampleLoops 0 samples)) := by
  choose rate hrate using fun i => Option.isSome_iff_exists.mp (hconf.rate i)
  obtain ⟨r, ns, hhead⟩ := run_head (s := s.beginBlock pins samples rest) s.resp s.issuer.names (sampleLoops 0 samples) hs hrate
    (fun _ => rfl)
  exact ⟨_, r, ns, fun i => ⟨rate i, hrate i, rfl⟩, (run_succ (step_beginBlock hresets hb hp hne)).trans hhead⟩

/-- Settles O57: every claim is read off the state of `run_beforeLoops`. -/
theorem runBlockDebouncesThenTriggers : Obligations.RunBlockDebouncesThenTriggers := by
  intro s pins samples rest hs hconf hresets hb hp hne
  obtain ⟨e, r, ns, he, hrun⟩ := run_beforeLoops hs hconf hresets hb hp hne
  exact ⟨_, e, he, hrun, hs, s.block.afterHead_edge e, rfl, rfl, rfl, rfl, rfl, rfl, rfl, rfl⟩

/-! ### RUNBLOCK keeps the configuration -/

/-- The four configuration registers of an envelope. -/
def EnvRegs.settings (v : EnvRegs) : Option NUM × Option NUM × Option NUM × Option NUM :=
  (v.attack, v.decay, v.min, v.max)

theorem EnvRegs.settings_triggeredIf (v : EnvRegs) (rose : Bool) : (v.triggeredIf rose).settings = v.settings := by
  cases rose <;> rfl

theorem EnvRegs.settings_process (v : EnvRegs) (a d lo hi : NUM) : (v.process a d lo hi).1.settings = v.settings := by
  rcases v.process_cases a d lo hi with h | ⟨_, h⟩ | ⟨-, h⟩ <;> rw [h] <;> rfl

theorem EdgeRegs.rate_debounce (d : EdgeRegs) (raw : Bool) (thr : Nat) : (d.debounce raw thr).rate = d.rate := by
  rcases d.debounce_cases raw thr with ⟨-, h⟩ | ⟨-, -, h⟩ | ⟨-, -, h⟩ <;> rw [h]

/-- What makes a block configured: FS, every RATE, the settings of every envelope, and WAVE. -/
theorem Configured.of_same {b b' : Block} (h : Configured b) (hfs : b'.sys.fs = b.sys.fs)
    (hrate : ∀ i : Fin nEdge, b'.edge[i].rate = b.edge[i].rate)
    (henv : ∀ j : Fin nEnv, b'.env[j].settings = b.env[j].settings) (hwave : b'.osc.wave = b.osc.wave) : Configured b' := by
  simp only [EnvRegs.settings, Prod.mk.injEq] at henv
  exact ⟨hfs ▸ h.fs, fun i => hrate i ▸ h.rate i, fun j => (henv j).1 ▸ h.attack j, fun j => (henv j).2.1 ▸ h.decay j,
    fun j => (henv j).2.2.1 ▸ h.min j, fun j => (henv j).2.2.2 ▸ h.max j, hwave ▸ h.wave⟩

theorem Configured.afterHead {b : Block} (h : Configured b) {e : Fin 4 → EdgeRegs}
    (he : ∀ i : Fin 4, (e i).rate = b.edge[i].rate) : Configured (b.afterHead e) :=
  h.of_same rfl (fun i => (congrArg EdgeRegs.rate (b.afterHead_edge e i)).trans (he i))
    (fun j => by fin_cases j <;> exact EnvRegs.settings_triggeredIf _ _) rfl

theorem Configured.exists_sampleReady {b : Block} (h : Configured b) (hsafe : b.sys.fault = none) :
    ∃ fs w attack decay lo hi, SampleReady b fs w attack decay lo hi := by
  obtain ⟨fs, hfs⟩ := Option.isSome_iff_exists.mp h.fs
  obtain ⟨w, hwave⟩ := Option.isSome_iff_exists.mp h.wave
  choose attack hattack using fun j => Option.isSome_iff_exists.mp (h.attack j)
  choose decay hdecay using fun j => Option.isSome_iff_exists.mp (h.decay j)
  choose lo hlo using fun j => Option.isSome_iff_exists.mp (h.min j)
  choose hi hhi using fun j => Option.isSome_iff_exists.mp (h.max j)
  exact ⟨fs, w, attack, decay, lo, hi, hsafe, hfs, hwave, fun j => ⟨hattack j, hdecay j, hlo j, hhi j⟩⟩

/-! ### The sample loop -/

/-- What the sample iterations `k` to `k + n - 1` make of the registers and of OUT. -/
structure FramesWritten (k n : Nat) (b b' : Block) (out out' : Memory) : Prop where
  safe : b'.sys.fault = none
  configured : Configured b'
  lfsr : b'.noise.lfsr = lfsrStep^[16 * n] b.noise.lfsr
  wf : out'.wf
  size : out'.size = out.size
  before : ∀ slot, slot < 2 * k → out'.read slot = out.read slot
  frame : ∀ i, k ≤ i → i < k + n → ∃ v, out'.read (2 * i) = some v ∧ out'.read (2 * i + 1) = some v

theorem FramesWritten.refl (k : Nat) {b : Block} {out : Memory} (hsafe : b.sys.fault = none) (hconf : Configured b)
    (hwf : out.wf) : FramesWritten k 0 b b out out :=
  ⟨hsafe, hconf, rfl, hwf, rfl, fun _ _ => rfl, fun _ hk hi => absurd hk (Nat.not_le.mpr hi)⟩

/-- One iteration, then `n` more. -/
theorem FramesWritten.cons {k n : Nat} {b b' b'' : Block} {out out' out'' : Memory} (h : FramesWritten k 1 b b' out out')
    (h' : FramesWritten (k + 1) n b' b'' out' out'') : FramesWritten k (n + 1) b b'' out out'' where
  safe := h'.safe
  configured := h'.configured
  lfsr := by rw [h'.lfsr, h.lfsr, ← Function.iterate_add_apply, Nat.mul_add]
  wf := h'.wf
  size := h'.size.trans h.size
  before slot hslot := (h'.before slot (by omega)).trans (h.before slot hslot)
  frame i hk hi := by
    rcases Nat.eq_or_lt_of_le hk with rfl | hlt
    · rw [h'.before _ (by omega), h'.before _ (by omega)]
      exact h.frame k le_rfl (by omega)
    · exact h'.frame i hlt (by omega)

section
variable {s : State} {b : Block} (hsafe : b.sys.fault = none) (hconf : Configured b)
include hsafe hconf

/-- One sample iteration from a configured block. -/
theorem run_sampleLoop_writes (r : Option Response) (ns : Names) (acts : List Action) {k : Nat} (bass snare : NUM)
    (hwf : s.out.wf) (hk : 2 * k + 1 < s.out.size) :
    ∃ b' r' ns' m, Host.Core.run Sys2Proof.core 10 (s.during b r ns (sampleLoop k bass snare ++ acts)) =
      .next (State.during { s with out := m } b' r' ns' acts) ∧ FramesWritten k 1 b b' s.out m := by
  obtain ⟨fs, w, attack, decay, lo, hi, hready⟩ := hconf.exists_sampleReady hsafe
  obtain ⟨m, m', hleft, hright, hsize, hwf', hread⟩ := Memory.write_frame hwf hk _
  obtain ⟨r', ns', hrun⟩ := run_sampleLoop r ns acts k bass snare hready (fun _ => rfl) rfl rfl rfl rfl hleft hright
  refine ⟨_, r', ns', m', hrun, hsafe, hconf.of_same rfl (fun _ => rfl) (fun j => ?_) hready.wave.symm,
    lfsrShift_eq_iterate _ _, hwf', hsize, fun slot hslot => ?_, fun i hki hik => ?_⟩
  · fin_cases j <;> exact EnvRegs.settings_process _ _ _ _ _
  · rw [hread, if_neg (by omega)]
  · obtain rfl : i = k := by omega
    exact ⟨_, (hread _).trans (if_pos (.inl rfl)), (hread _).trans (if_pos (.inr rfl))⟩

end

/-- The sample loop from a configured block, iteration by iteration. -/
theorem run_sampleLoops (samples : List (NUM × NUM)) {s : State} {b : Block} (r : Option Response) (ns : Names) {k : Nat}
    (hsafe : b.sys.fault = none) (hconf : Configured b) (hwf : s.out.wf) (hsize : 2 * (k + samples.length) ≤ s.out.size) :
    ∃ b' r' ns' m, Host.Core.run Sys2Proof.core (10 * samples.length) (s.during b r ns (sampleLoops k samples)) =
      .next (State.during { s with out := m } b' r' ns' []) ∧ FramesWritten k samples.length b b' s.out m := by
  induction samples generalizing s b r ns k with
  | nil => exact ⟨b, r, ns, s.out, rfl, FramesWritten.refl k hsafe hconf hwf⟩
  | cons sample samples ih =>
    obtain ⟨bass, snare⟩ := sample
    rw [List.length_cons] at hsize
    obtain ⟨b', r', ns', m, hrun, hframe⟩ := run_sampleLoop_writes hsafe hconf r ns (sampleLoops (k + 1) samples) bass snare hwf
      (k := k) (by omega)
    obtain ⟨b'', r'', ns'', m', hrun', hframes⟩ := ih (s := { s with out := m }) r' ns' hframe.safe hframe.configured hframe.wf
      (k := k + 1) (by rw [hframe.size]; omega)
    refine ⟨b'', r'', ns'', m', ?_, hframe.cons hframes⟩
    rw [List.length_cons, Nat.mul_add_one, Nat.add_comm, sampleLoops]
    exact (run_add hrun).trans hrun'

/-- Settles O59: the fourteen steps of `run_beforeLoops` leave a configured block, from which the sample loop writes frame after
frame (`run_sampleLoops`). -/
theorem runBlockWritesEverySlot : Obligations.RunBlockWritesEverySlot := by
  intro s pins samples rest hs hconf hresets hb hp hne
  obtain ⟨e, r, ns, he, hhead⟩ := run_beforeLoops hs hconf hresets hb hp hne
  have hconf' : Configured (s.block.afterHead e) := hconf.afterHead fun i => by
    obtain ⟨rate, -, hi⟩ := he i
    rw [hi, EdgeRegs.rate_debounce]
  obtain ⟨b', r', ns', m, hloops, hframes⟩ := run_sampleLoops samples (k := 0)
    (s := ((s.beginBlock pins samples rest).setStrobe .bass (e 1).rise).setStrobe .snare (e 2).rise) (b := s.block.afterHead e)
    r ns hs hconf' (Memory.handedOver_wf samples.length) (Nat.mul_le_mul_left 2 (Nat.zero_add _).le)
  exact ⟨_, (run_add hhead).trans hloops, hframes.safe, hframes.configured, rfl, rfl, hframes.size,
    fun k hk => hframes.frame k (Nat.zero_le k) (by omega), hframes.lfsr⟩

end Sys2Proof.Machine
end

section
/-! The configured block (60_exceptions.md R210, 70_reset_and_hazards.md R242): every completed operation keeps the configuration
registers written, one rule per update, so no operation of an existing instance finds a need unmet. -/

namespace Sys2Proof.Machine

/-! ### What a configured block has written, one instance at a time -/

/-- The four configuration registers of an envelope are written. -/
structure EnvWritten (e : EnvRegs) : Prop where
  attack : e.attack.isSome
  decay : e.decay.isSome
  min : e.min.isSome
  max : e.max.isSome

theorem EnvWritten.process {e : EnvRegs} (he : EnvWritten e) (a d lo hi : NUM) : EnvWritten (e.process a d lo hi).1 := by
  rcases e.process_cases a d lo hi with h | ⟨_, h⟩ | ⟨-, h⟩ <;> rw [h] <;> exact ⟨he.attack, he.decay, he.min, he.max⟩

section
variable {b : Block} (h : FullyConfigured b)
include h

theorem FullyConfigured.env (j : Fin nEnv) : EnvWritten b.env[j] :=
  ⟨h.attack j, h.decay j, h.min j, h.max j⟩

/-- A configured block meets the needs of every operation (60_exceptions.md R215). -/
theorem FullyConfigured.not_unmet (i : Instr) : ¬ Unmet i b := by
  obtain ⟨⟨hfs, hrate, hattack, hdecay, hmin, hmax, hwave⟩, hfreq, hamp⟩ := h
  simp only [Option.isSome_iff_ne_none] at *
  cases i
  case edgeDebounce => exact fun ⟨k, _, hnone⟩ => hrate k hnone
  case envProcess =>
    rintro ⟨j, -, hnone⟩
    simp only [hfs, hattack j, hdecay j, hmin j, hmax j, or_self] at hnone
  case oscProcess => simp only [Unmet, hfs, hwave, hfreq, hamp, or_self, not_false_eq_true]
  all_goals exact id

/-! ### The configuration, one rule per update -/

theorem FullyConfigured.setFs (v : NUM) : FullyConfigured { b with sys := { b.sys with fs := some v } } :=
  { h with fs := rfl }

theorem FullyConfigured.setEdge (k : Fin nEdge) {e : EdgeRegs} (he : e.rate.isSome) : FullyConfigured (b.setEdge k e) :=
  { h with
    rate := fun i => by
      rw [edge_setEdge]
      split
      · exact he
      · exact h.rate i }

theorem FullyConfigured.setEnv (j : Fin nEnv) {e : EnvRegs} (he : EnvWritten e) : FullyConfigured (b.setEnv j e) := by
  have henv (k : Fin nEnv) : EnvWritten (b.setEnv j e).env[k] := by
    rw [env_setEnv]
    split
    · exact he
    · exact h.env k
  exact { h with
    attack := fun k => (henv k).attack
    decay := fun k => (henv k).decay
    min := fun k => (henv k).min
    max := fun k => (henv k).max }

theorem FullyConfigured.setOsc {o : OscRegs} (hwave : o.wave.isSome) (hfreq : o.freq.isSome) (hamp : o.amp.isSome) :
    FullyConfigured { b with osc := o } :=
  { h with wave := hwave, freq := hfreq, amp := hamp }

end

/-! ### The configuration is kept -/

theorem Completes.keeps_fullyConfigured {i : Instr} {s t : State} (hc : Completes i s t) (h : FullyConfigured s.block) :
    FullyConfigured t.block := by
  cases i <;> simp only [Completes] at hc
  case sysStatus | mixProcess => subst hc; exact h
  case sysSetfs v => obtain ⟨-, rfl⟩ := hc; exact h.setFs v
  case edgeInit => obtain ⟨k, -, rfl⟩ := hc; exact h.setEdge k rfl
  case edgeDebounce =>
    obtain ⟨k, _, -, -, rfl⟩ := hc
    exact h.setEdge k ((EdgeRegs.rate_debounce ..).symm ▸ h.rate k)
  case edgeRising => obtain ⟨k, -, rfl⟩ := hc; exact h.setEdge k (h.rate k)
  case envSetattack => obtain ⟨j, -, rfl⟩ := hc; exact h.setEnv j { h.env j with attack := rfl }
  case envSetdecay => obtain ⟨j, -, rfl⟩ := hc; exact h.setEnv j { h.env j with decay := rfl }
  case envSetmin => obtain ⟨j, -, rfl⟩ := hc; exact h.setEnv j { h.env j with min := rfl }
  case envSetmax => obtain ⟨j, -, rfl⟩ := hc; exact h.setEnv j { h.env j with max := rfl }
  case envTrigger => obtain ⟨j, -, rfl⟩ := hc; exact h.setEnv j { h.env j with }
  case envProcess => obtain ⟨j, _, _, _, _, _, -, -, -, -, -, -, rfl⟩ := hc; exact h.setEnv j ((h.env j).process _ _ _ _)
  case oscSetwave => subst hc; exact h.setOsc rfl h.freq h.amp
  case oscSetfreq => subst hc; exact h.setOsc h.wave rfl h.amp
  case oscSetamp => subst hc; exact h.setOsc h.wave h.freq rfl
  case oscProcess => obtain ⟨_, _, _, _, -, -, -, -, rfl⟩ := hc; exact h.setOsc h.wave h.freq h.amp
  case noiseSeed | noiseProcess | mixSetmode => subst hc; exact { h with }

/-- One operation of the list of R210: it has an instance, its rate is positive and its needs are met, so it completes. -/
theorem exec_of_fullyConfigured {i : Instr} {s : State} (h : FullyConfigured s.block) (hs : Safe s) (hi : i.wellFormed = true)
    (hrate : ∀ inst v, i = .sysSetfs inst v → 0 < v) : ∃ t, exec i s = .next t ∧ Safe t ∧ FullyConfigured t.block := by
  rcases exec_performs hs (of_decide_eq_true hi) with ⟨inst, v, hv, rfl, -⟩ | ⟨hunmet, -⟩ | ⟨-, -, t, ht, hc⟩
  · exact absurd (hrate inst v rfl) (not_lt.mpr hv)
  · exact absurd hunmet (h.not_unmet i)
  · exact ⟨t, ht, hc.answers.1.trans hs, hc.keeps_fullyConfigured h⟩

/-- Settles O14, by induction on the list: each operation completes and leaves a configured block (`exec_of_fullyConfigured`). -/
theorem configuredBlocksNeverFault : Obligations.ConfiguredBlocksNeverFault := by
  intro commands
  induction commands with
  | nil => exact fun s h hs _ => ⟨s, rfl, hs, h⟩
  | cons i rest ih =>
    intro s h hs hall
    obtain ⟨hi, hrate⟩ := hall i (List.mem_cons_self ..)
    obtain ⟨m, hm, hsafe, hconf⟩ := exec_of_fullyConfigured h hs hi hrate
    rw [execAll_cons rest hm]
    exact ih m hconf hsafe fun k hk => hall k (List.mem_cons_of_mem _ hk)

end Sys2Proof.Machine
end

section
/-! The faults (60_exceptions.md R211 to R219): what raises each cause, said once for all operations; and the halted block. -/

namespace Sys2Proof.Machine

/-! ### What raises a fault -/

/-- The checks 3, 4 and 5 of 60_exceptions.md R216, as the causes they raise: `Raises b i cause` where the operation `i` fails the
check of `cause` on the registers `b`. -/
inductive Raises (b : Block) : Instr → FaultCause → Prop
  | missing {i : Instr} (hi : i.unit.count ≤ i.inst.toNat) : Raises b i .badInstance
  | rate {v : NUM} (hv : v ≤ 0) : Raises b (.sysSetfs 0 v) .badConfig
  | unwritten {i : Instr} (hi : i.inst.toNat < i.unit.count) (hneeds : Unmet i b) : Raises b i .unconfigured

/-- An INST below 1 is 0: the one instance of SYS, OSC, NOISE and MIX. -/
theorem inst_eq_zero {inst : Nibble} (h : inst.toNat < 1) : inst = 0 :=
  BitVec.eq_of_toNat_eq (Nat.lt_one_iff.mp h)

/-- An operation that fails a check enters that fault with its own word (R217). -/
theorem Raises.exec_eq {i : Instr} {s : State} {cause : FaultCause} (h : Raises s.block i cause) (hs : Safe s) :
    exec i s = .next (s.raise cause i.word) := by
  cases h with
  | missing hi => exact exec_missing hs hi
  | rate hv => rw [exec_sysSetfs hs, if_pos hv]; rfl
  | unwritten hi hneeds =>
    rcases exec_performs hs hi with ⟨_, _, -, rfl, -⟩ | ⟨-, h⟩ | ⟨hmet, -⟩
    · exact hneeds.elim
    · exact h
    · exact absurd hneeds hmet

/-- A record after an operation, where there was none before, is that of a check the operation failed. -/
theorem raises_of_exec {i : Instr} {s t : State} {cause : FaultCause} {w : Word} (hs : Safe s) (h : exec i s = .next t)
    (ht : t.block.sys.fault = some ⟨cause, w⟩) : Raises s.block i cause := by
  have recorded {cause' : FaultCause} (h' : exec i s = .next (s.raise cause' i.word)) : cause' = cause := by
    obtain rfl := Host.Outcome.next.inj (h'.symm.trans h)
    exact congrArg FaultRecord.cause (Option.some.inj ht)
  rcases Nat.lt_or_ge i.inst.toNat i.unit.count with hi | hi
  · rcases exec_performs hs hi with ⟨inst, v, hv, rfl, h'⟩ | ⟨hneeds, h'⟩ | ⟨-, -, u, hu, hc⟩
    · obtain rfl := inst_eq_zero hi
      exact recorded h' ▸ .rate hv
    · exact recorded h' ▸ .unwritten hi hneeds
    · obtain rfl := Host.Outcome.next.inj (hu.symm.trans h)
      cases (hc.answers.1.trans hs).symm.trans ht
  · exact recorded (exec_missing hs hi) ▸ .missing hi

/-! ### The four causes -/

/-- Settles O8: a reserved word raises (`execute_of_reserved`); a word that spells an operation fails no check with this cause. -/
theorem reservedWordsRaiseIllegalCommand : Obligations.ReservedWordsRaiseIllegalCommand := by
  refine fun s c hs => ⟨fun hd => execute_of_reserved hd hs, fun t w h ht => ?_⟩
  rcases execute_inversion h with ⟨i, -, h⟩ | ⟨hf, -⟩ | ⟨-, hd, -⟩
  · cases raises_of_exec hs h ht
  · simp [hs] at hf
  · exact hd

/-- Settles O9: `Raises.missing` is the one check with this cause. -/
theorem missingInstancesRaiseBadInstance : Obligations.MissingInstancesRaiseBadInstance := by
  refine ⟨⟨rfl, rfl, rfl, rfl, rfl, rfl⟩, fun s i hs => ⟨fun hi => (Raises.missing hi).exec_eq hs, fun t w h ht => ?_⟩⟩
  cases raises_of_exec hs h ht with
  | missing hi => exact hi

/-- Settles O10: `Raises.rate` is the one check with this cause. -/
theorem nonPositiveRatesRaiseBadConfig : Obligations.NonPositiveRatesRaiseBadConfig := by
  refine fun s hs => ⟨fun v hv => (Raises.rate hv).exec_eq hs, fun i t w h ht => ?_⟩
  cases raises_of_exec hs h ht with
  | rate hv => exact ⟨_, hv, rfl⟩

/-- The needs of an operation of an existing instance, as the table of 60_exceptions.md R215 lists them. -/
theorem unmet_iff {i : Instr} {b : Block} (hi : i.inst.toNat < i.unit.count) :
    Unmet i b ↔
      (∃ (k : Fin 4) (inst : Nibble) (raw : Bool), inst.toNat = k.val ∧ i = .edgeDebounce inst raw ∧ b.edge[k].rate = none) ∨
      (∃ (j : Fin 3) (inst : Nibble), inst.toNat = j.val ∧ i = .envProcess inst ∧
        (b.sys.fs = none ∨ b.env[j].attack = none ∨ b.env[j].decay = none ∨ b.env[j].min = none ∨ b.env[j].max = none)) ∨
      (i = .oscProcess 0 ∧ (b.sys.fs = none ∨ b.osc.wave = none ∨ b.osc.freq = none ∨ b.osc.amp = none)) := by
  constructor
  · intro h
    cases i
    case edgeDebounce inst raw => obtain ⟨k, hk, hnone⟩ := h; exact .inl ⟨k, inst, raw, hk, rfl, hnone⟩
    case envProcess inst => obtain ⟨j, hj, hnone⟩ := h; exact .inr (.inl ⟨j, inst, hj, rfl, hnone⟩)
    case oscProcess inst => obtain rfl := inst_eq_zero hi; exact .inr (.inr ⟨rfl, h⟩)
    all_goals exact h.elim
  · rintro (⟨k, inst, raw, hk, rfl, hnone⟩ | ⟨j, inst, hj, rfl, hnone⟩ | ⟨rfl, hnone⟩)
    · exact ⟨k, hk, hnone⟩
    · exact ⟨j, hj, hnone⟩
    · exact hnone

/-- Settles O11, by the table of needs (`unmet_iff`). -/
theorem unwrittenRegistersRaiseUnconfigured : Obligations.UnwrittenRegistersRaiseUnconfigured := by
  intro s i hs hi
  have hinst : i.inst.toNat < i.unit.count := of_decide_eq_true hi
  refine ⟨fun hneeds => (Raises.unwritten hinst ((unmet_iff hinst).mpr hneeds)).exec_eq hs, fun t w h ht => ?_⟩
  cases raises_of_exec hs h ht with
  | unwritten _ hneeds => exact (unmet_iff hinst).mp hneeds

/-- Settles O12, by `execute_raises`. -/
theorem faultsArePrecise : Obligations.FaultsArePrecise := by
  intro s t c r hs h ht
  obtain ⟨cause, rfl⟩ := execute_raises hs h (by simp [ht])
  obtain rfl := Option.some.inj ht
  exact ⟨rfl, rfl⟩

/-! ### The halted block -/

section
variable {s t : State} (hs : s.block.sys.fault.isSome)
include hs

/-- SYS.STATUS 0 is the one command a halted block examines (R218): whatever else stands on the port is ignored, reserved or with a
wrong operand list too. -/
theorem execute_ignored {c : Command} (hc : c ≠ ⟨0x0000, []⟩) : execute c s = .next s.ignored := by
  cases hd : decode c with
  | error e => exact execute_rejected_of_halted hd hs
  | ok i =>
    rw [execute_of_decode hd]
    refine exec_ignored hs ?_
    rintro rfl
    exact hc (encodeOfDecodeIsTheCommand c _ hd).symm

theorem execute_block_of_halted {c : Command} (h : execute c s = .next t) : t.block = s.block := by
  rcases execute_inversion h with ⟨i, -, h⟩ | ⟨-, rfl⟩ | ⟨hnone, -⟩
  · rcases exec_inversion h with ⟨-, -, rfl⟩ | ⟨-, -, rfl⟩ | ⟨hnone, -⟩ | ⟨hnone, -⟩
    · rfl
    · rfl
    · simp [hnone] at hs
    · simp [hnone] at hs
  · rfl
  · simp [hnone] at hs

theorem issueLine_block_of_halted {l : Line} (h : issueLine l s = .next t) : t.block = s.block := by
  rcases issueLine_inversion h with ⟨-, rfl⟩ | ⟨-, _, u, -, hu, rfl⟩ | ⟨-, rfl⟩
  · rfl
  · exact (u.endLine_block l).trans (execute_block_of_halted hs hu)
  · rfl

theorem perform_block_of_halted {a : Action} (h : perform a s = .next t) : t.block = s.block := by
  rcases perform_inversion h with ⟨l, -, h⟩ | ⟨v, _, b, -, -, rfl⟩ | ⟨_, _, _, _, -, -, -, rfl⟩
  · exact issueLine_block_of_halted hs h
  · exact State.setStrobe_block s v b
  · rfl

/-- The halted state does not end by itself (R218, R219): a step of a halted block is a reset event or changes no register. -/
theorem step_block_of_halted (h : step s = .next t) :
    (∃ later, s.resets = 0 :: later ∧ t.block = Block.reset) ∨ t.block = s.block := by
  rcases step_inversion h with ⟨later, hdue, rfl⟩ | ⟨a, rest, -, h⟩ | ⟨-, l, rest, -, h⟩ | ⟨-, _, _, _, -, -, rfl⟩ | ⟨-, -, rfl⟩
  · exact .inl ⟨later, hdue, rfl⟩
  · exact .inr (perform_block_of_halted (by exact hs) h :)
  · exact .inr (perform_block_of_halted (by exact hs) h :)
  · exact .inr rfl
  · exact .inr rfl

end

/-- Settles O7: SYS.STATUS 0 answers from the record (`exec_status`), `execute_ignored` and `step_block_of_halted` are the rest. -/
theorem haltedBlockAnswersOnlyStatus : Obligations.HaltedBlockAnswersOnlyStatus := by
  intro s r hr
  have hs : s.block.sys.fault.isSome := by simp [hr]
  refine ⟨?_, fun c hc => execute_ignored hs hc, fun t hdue h => ?_⟩
  · rw [execute_of_decode (i := .sysStatus 0) rfl, exec_status, Block.statusResponse_of_some hr]
    rfl
  · rcases step_block_of_halted hs h with ⟨later, hlater, -⟩ | h
    · exact absurd hlater (hdue later)
    · exact h

/-- Settles O13, by `step_block_of_halted`. -/
theorem onlyResetClearsTheFaultRecord : Obligations.OnlyResetClearsTheFaultRecord := by
  intro s t r hr h
  rcases step_block_of_halted (by simp [hr]) h with hreset | hsame
  · exact .inr hreset
  · exact .inl (hsame ▸ hr)

end Sys2Proof.Machine
end

section
/-! Reset and start (70_reset_and_hazards.md R240 to R242): the step that takes a reset event, and the list of writes that must come
before the first RUNBLOCK, one rule per group of writes. -/

namespace Sys2Proof.Machine

/-! ### The reset event -/

theorem step_of_due {s : State} {later : List Nat} (h : s.resets = 0 :: later) : step s = .next (s.resetBlock later) := by
  simp only [step, h]

/-- Settles O49, by `step_of_due`. -/
theorem resetEventRestoresTheResetValues : Obligations.ResetEventRestoresTheResetValues :=
  fun _ _ hdue => step_of_due hdue

/-! ### The registers after the list of R242 -/

/-- An envelope after its ENV.INIT: STAGE and ELAPSED are as they were (R120). -/
def EnvRegs.initialised (e : EnvRegs) (p : EnvParams) : EnvRegs :=
  { e with attack := some p.attack, decay := some p.decay, min := some p.min, max := some p.max }

/-- The registers after the whole list, its EDGE.INIT rate being `rate` and `p` the parameters of the envelopes. -/
def Block.initialised (b : Block) (fs rate : NUM) (p : Vector EnvParams nEnv) (w : Waveform) : Block :=
  { b with
    sys := { b.sys with fs := some fs }
    edge := Vector.replicate nEdge ⟨some rate, false, 0, false⟩
    env := b.env.zipWith EnvRegs.initialised p
    osc := { b.osc with wave := some w } }

section
variable (b : Block) (fs rate : NUM) (p : Vector EnvParams nEnv) (w : Waveform)

@[simp] theorem Block.initialised_edge (i : Fin nEdge) : (b.initialised fs rate p w).edge[i] = ⟨some rate, false, 0, false⟩ :=
  Vector.getElem_replicate i.isLt

@[simp] theorem Block.initialised_env (j : Fin nEnv) : (b.initialised fs rate p w).env[j] = b.env[j].initialised p[j] :=
  Vector.getElem_zipWith j.isLt

theorem Block.initialised_configured : Configured (b.initialised fs rate p w) where
  fs := rfl
  rate i := by rw [initialised_edge]; rfl
  attack j := by rw [initialised_env]; rfl
  decay j := by rw [initialised_env]; rfl
  min j := by rw [initialised_env]; rfl
  max j := by rw [initialised_env]; rfl
  wave := rfl

end

/-! ### The writes, group by group -/

theorem execAll_append_of_next {before : List Instr} {s t : State} (after : List Instr) (h : execAll before s = .next t) :
    execAll (before ++ after) s = execAll after t := by
  rw [execAll_append, h, andThen_next]

/-- The last of several writes to one envelope holds. -/
@[simp] theorem Block.setEnv_setEnv (b : Block) (j : Fin nEnv) (e e' : EnvRegs) : (b.setEnv j e).setEnv j e' = b.setEnv j e' := by
  simp only [setEnv, Vector.set_set]

theorem Block.setEdge_every (b : Block) (e : EdgeRegs) :
    (((b.setEdge 0 e).setEdge 1 e).setEdge 2 e).setEdge 3 e = { b with edge := Vector.replicate nEdge e } :=
  congrArg (fun edge => { b with edge }) (Vector.ext fun i hi => by interval_cases i <;> simp [nEdge])

/-- The registers after one ENV.INIT. -/
def Block.initEnv (b : Block) (j : Fin nEnv) (p : EnvParams) : Block := b.setEnv j (b.env[j].initialised p)

theorem Block.initEnv_every (b : Block) (p0 p1 p2 : EnvParams) :
    ((b.initEnv 0 p0).initEnv 1 p1).initEnv 2 p2 = { b with env := b.env.zipWith EnvRegs.initialised #v[p0, p1, p2] } :=
  congrArg (fun env => { b with env }) (Vector.ext fun j hj => by interval_cases j <;> simp [initEnv])

section
variable {s : State} (hs : Safe s)
include hs

theorem exec_sysSetfs_of_pos {fs : NUM} (hfs : 0 < fs) :
    exec (.sysSetfs 0 fs) s =
      .next (State.answer { s with block := { s.block with sys := { s.block.sys with fs := some fs } } } .empty) := by
  rw [exec_sysSetfs hs, if_neg (not_le.mpr hfs)]

/-- The four EDGE.INIT leave every detector alike. -/
theorem execAll_edgeInits (rate : NUM) :
    execAll [.edgeInit 0 rate, .edgeInit 1 rate, .edgeInit 2 rate, .edgeInit 3 rate] s =
      .next (State.answer { s with block :=
        { s.block with edge := Vector.replicate nEdge ⟨some rate, false, 0, false⟩ } } .empty) := by
  rw [execAll_cons _ (exec_edgeInit hs (by decide) rate), execAll_cons _ (exec_edgeInit (by exact hs) (by decide) rate),
    execAll_cons _ (exec_edgeInit (by exact hs) (by decide) rate), execAll_cons _ (exec_edgeInit (by exact hs) (by decide) rate),
    execAll_nil, ← Block.setEdge_every]
  rfl

/-- ENV.INIT (30_encoding.md R92) writes the four configuration registers of its envelope. -/
theorem execAll_envInit {inst : Nibble} (h : inst.toNat < nEnv) (p : EnvParams) :
    execAll (envInit inst p.attack p.decay p.min p.max) s =
      .next (State.answer { s with block := s.block.initEnv ⟨inst.toNat, h⟩ p } .empty) := by
  rw [envInit,
    execAll_cons (i := .envSetattack inst p.attack) _ (envConfigure_performs hs h _ ({ · with attack := some p.attack })),
    execAll_cons (i := .envSetdecay inst p.decay) _ (envConfigure_performs (by exact hs) h _ ({ · with decay := some p.decay })),
    execAll_cons (i := .envSetmin inst p.min) _ (envConfigure_performs (by exact hs) h _ ({ · with min := some p.min })),
    execAll_cons (i := .envSetmax inst p.max) _ (envConfigure_performs (by exact hs) h _ ({ · with max := some p.max }))]
  simp only [execAll_nil, State.answer, env_setEnv_same, Block.setEnv_setEnv]
  rfl

/-- The three ENV.INIT, each with its own parameters. -/
theorem execAll_envInits (p0 p1 p2 : EnvParams) :
    execAll (envInit 0 p0.attack p0.decay p0.min p0.max ++ envInit 1 p1.attack p1.decay p1.min p1.max ++
        envInit 2 p2.attack p2.decay p2.min p2.max) s =
      .next (State.answer { s with block :=
        { s.block with env := s.block.env.zipWith EnvRegs.initialised #v[p0, p1, p2] } } .empty) := by
  rw [List.append_assoc, execAll_append_of_next _ (execAll_envInit hs (by decide) p0),
    execAll_append_of_next _ (execAll_envInit (by exact hs) (by decide) p1),
    execAll_envInit (by exact hs) (by decide) p2, ← Block.initEnv_every]
  rfl

/-- The whole list of R242, for a rate above 0. -/
theorem execAll_initialisation {fs : NUM} (hfs : 0 < fs) (blockSize : Nat) (e0 e1 e2 : EnvParams) (w : Waveform) :
    execAll (initialisation fs blockSize e0 e1 e2 w) s =
      .next (State.answer { s with block := s.block.initialised fs (fs / blockSize) #v[e0, e1, e2] w } .empty) := by
  rw [initialisation, List.cons_append, execAll_cons _ (exec_sysSetfs_of_pos hs hfs),
    execAll_append_of_next _ (execAll_edgeInits (by exact hs) _), execAll_append_of_next _ (execAll_envInits (by exact hs) ..),
    execAll_cons _ (exec_oscSetwave (by exact hs) w), execAll_nil]
  rfl

end

/-- Settles O56: the list ends without a fault in the registers of `Block.initialised` (`execAll_initialisation`). -/
theorem initialisationConfiguresTheBlock : Obligations.InitialisationConfiguresTheBlock :=
  fun s fs blockSize e0 e1 e2 w hs hfs =>
    ⟨_, execAll_initialisation hs hfs blockSize e0 e1 e2 w, hs, Block.initialised_configured .., rfl, rfl,
      Block.initialised_edge s.block fs _ _ w, Block.initialised_env s.block fs _ _ w, rfl, rfl⟩

end Sys2Proof.Machine
end
